-- ==== Sys2Proof/Word.lean ====
section
/-! DEFINITION. The block's word types (00_scope.md R6, R7, R9). Every quantity is unsigned; bit 0 is the
least significant bit and, in a register byte, bit `n` is physical pin `n`. -/

namespace Sys2Proof

/-- A register byte, a data operand, a bus byte, or a bus error payload (`BERR_W` = 8, R7). -/
abbrev Byte := BitVec 8

/-- A handler token or an external-pin token (`TOK_W` = 8, every value valid, R7, R16). -/
abbrev Tok := BitVec 8

/-- The 7-bit bus address of the chip (R6). -/
abbrev BusAddr := BitVec 7

/-- A command word (`CMD_W` = 24, R80). -/
abbrev CmdWord := BitVec 24

/-- A response word (`RSP_W` = 16, R88). -/
abbrev RspWord := BitVec 16

/-- A pin's logical bit index, 0 to 7 (R6, R28): it selects a bit and a watcher entry, so it is a number
below 8 and not a word. -/
abbrev PinIdx := Fin 8

end Sys2Proof
end

