-- ==== Sys2Proof/Config.lean ====
section
/-! DEFINITION. What an implementation or the outside fixes and the spec leaves open (00_scope.md R7, 93 part 1):
named parameters, and free values as constants without a body, so that no proof can use a value of one. -/

namespace Sys2Proof

/-- The four registers, numbered as the bus numbers them (10_state.md R21, 30_encoding.md R91). -/
inductive Reg where
  | inp   -- 0, `IN`: input
  | out   -- 1, `OUT`: output
  | pol   -- 2, `POL`: polarity-inversion
  | cfg   -- 3, `CFG`: configuration
deriving DecidableEq, Repr, Inhabited

/-- The register's index on the bus: "0=input, 1=output, 2=polarity-inversion, 3=configuration" (R6, R91). -/
def Reg.index : Reg → BitVec 2
  | .inp => 0
  | .out => 1
  | .pol => 2
  | .cfg => 3

/-- The two command ports (00_scope.md R8). -/
inductive Port where
  | portS   -- the synchronous caller, and the handlers of the DISP commands it issues
  | portA   -- the asynchronous context and the handlers it runs
deriving DecidableEq, Repr, Inhabited

/-- `DISPATCH_MODE` (R7; 42_interrupt_dispatcher.md R163, R164). -/
inductive DispatchMode where
  | snapshot
  | live
deriving DecidableEq, Repr, Inhabited

/-- The bus target's answer to one transaction: success with a byte (meaningful for a read only, R91), or
failure with an opaque payload (R50). -/
inductive BusReply where
  | ok (b : Byte)
  | err (e : Byte)
deriving DecidableEq, Repr, Inhabited

/-- The external-pin capability's answer to one call (R92). -/
inductive XPinReply where
  | ok
  | fail
deriving DecidableEq, Repr, Inhabited

/-- `ADDRESS`, OPEN in R7: any value 0x00 to 0x7F (D35). Free: no body. -/
opaque Config.address : BusAddr

/-- `CACHE_RESET`, 0x00 for each register (R7, R36; D7: DESIGN CHOICE of the spec, notes/assumptions/1.md). -/
def Config.cacheReset : Reg → Byte := fun _ => 0x00

/-- The value of `DISPATCH_MODE` this spec takes (R7, R163). -/
def Config.dispatchMode : DispatchMode := .snapshot

/-- What the bus target answers where the state's script names no answer: any byte or any error
(20_memory.md R56, 93 U3, U7). Free. -/
opaque Config.freeBus : Nat → BusReply

/-- What the external-pin capability answers where the script names no answer (R264: it may fail any call). Free. -/
opaque Config.freeXPin : Nat → XPinReply

/-- A reading of the time source, or an elapsed time, where the script names none (R7, R219, D21). Free. -/
opaque Config.freeTime : Nat → Nat

/-- Which handler a fan-out invokes next where the script does not say (42 R165, 93 U1). Free. -/
opaque Config.freePick : Nat → Nat

/-- Which port the arbiter serves first when both have work (20_memory.md R59 item 3, 93 U6). Free. -/
opaque Config.freeTurn : Nat → Port

end Sys2Proof
end

