-- ==== Sys2Proof/Syntax.lean ====
section
/-! DEFINITION. The 20 commands of the block (30_encoding.md R84) and the senses of their operands (00_scope.md
R13, 30_encoding.md R83). PWATCH's three table rows are one command with three edge kinds. -/

namespace Sys2Proof

/-- Operand of PDIR (R13, R83). -/
inductive Direction where
  | output   -- `out`, 0
  | input    -- `in`, 1
deriving DecidableEq, Repr, Inhabited

/-- Operand of PWRITE and PPULSE, and what PREAD reads (R13, R83). -/
inductive Level where
  | low    -- 0
  | high   -- 1
deriving DecidableEq, Repr, Inhabited

/-- Operand of PWATCH (R83): exactly these three kinds; the code 3 is reserved. -/
inductive EdgeKind where
  | noEdge    -- `none`, 0
  | rising    -- 1
  | falling   -- 2
deriving DecidableEq, Repr, Inhabited

/-- Operand of PPULL (R83). -/
inductive Pull where
  | down   -- 0
  | up     -- 1
deriving DecidableEq, Repr, Inhabited

/-- A command with its operands (R84, R94). -/
inductive Instr where
  -- 40_register_cache.md: the Register Cache (Device)
  | wrcfg (b : Byte)                                 -- R110
  | wrpol (b : Byte)                                 -- R111
  | wrout (b : Byte)                                 -- R112
  | rdin                                             -- R113
  | rdout                                            -- R114
  | rdcfg                                            -- R115
  | rdpol                                            -- R116
  | setint (xp h : Tok)                              -- R117
  | close                                            -- R119
  -- 41_digital_pin.md: the Digital Pin
  | pdir (i : PinIdx) (d : Direction)                -- R132
  | pactlow (i : PinIdx) (a : Bool)                  -- R133
  | pwrite (i : PinIdx) (l : Level)                  -- R134
  | pread (i : PinIdx)                               -- R136
  | pwatch (i : PinIdx) (e : EdgeKind) (h : Tok)     -- R137
  | pstop (i : PinIdx)                               -- R138
  | ppulse (i : PinIdx) (l : Level)                  -- R140
  | ppull (i : PinIdx) (k : Pull)                    -- R141
  -- 42_interrupt_dispatcher.md: the Interrupt Dispatcher
  | reg (i : PinIdx) (h : Tok)                       -- R160
  | unreg (i : PinIdx)                               -- R161
  | disp (b : Byte)                                  -- R162
deriving DecidableEq, Repr, Inhabited

end Sys2Proof
end

