-- ==== Sys2Proof/Machine/State.lean ====
section
/-! DEFINITION. The state of the block (10_state.md R20 to R31), the environment's inputs that one deterministic step
reads as plain data (00_scope.md R8, 70_reset_and_hazards.md R264), and the histories the model keeps for its own use
(10_state.md R33). The block's own record is `Block` and nothing else: the live registers, the chip's pins and the
handlers' code are not state (R37). -/

namespace Sys2Proof.Machine

/-! ### The block's record (R20) -/

/-- The four cache registers `x[0..3]` (R21): last-known values, not the live ones. -/
structure Cache where
  inp : Byte   -- `x[0]`, `inputPortReg`
  out : Byte   -- `x[1]`, `outputPortReg`
  pol : Byte   -- `x[2]`, `polarityInvReg`
  cfg : Byte   -- `x[3]`, `configurationReg`
deriving DecidableEq, Repr

/-- The phase of PPULSE on a port, with its operands and start time (R30). -/
inductive Pulse where
  | idle
  | drain (i : PinIdx) (l : Level)
  | waitStart (i : PinIdx) (l : Level)
  | timing (i : PinIdx) (l : Level) (t0 : Nat)
deriving DecidableEq, Repr

/-- The `fanout` state of a dispatch (R30; 42_interrupt_dispatcher.md R162 to R165). -/
structure Fanout where
  /-- The dispatch byte: DISP's operand or the masked byte. -/
  byte     : Byte
  /-- The pairs of the copy taken at the start that have not been invoked yet. -/
  pending  : List (PinIdx × Tok)
  /-- The handler invoked and not yet returned (`await return`). -/
  running  : Option (PinIdx × Tok)
  /-- The indices this dispatch has invoked: no entry is invoked twice (R164). -/
  invoked  : List PinIdx
  /-- Live mode only: entries a command removed while this dispatch was in progress, which it may miss (R164). -/
  missable : List PinIdx
deriving DecidableEq, Repr

/-- The phase of the service sequence (R30; 60_exceptions.md R210, R211). `top` holds the latched handler token and the
masked byte, and whether `TOP` has been emitted; `failed` is a sequence whose input read failed, before `asyncFault` is
set, and `report` is an aborted sequence whose `ASYNC_ERR` is not yet out. -/
inductive Svc where
  | idle
  | top (h : Tok) (m : Byte) (invoked : Bool)
  | fanout (f : Fanout)
  | failed (e : Byte)
  | report (e : Byte)
deriving DecidableEq, Repr

/-- The state record of the block (R20): "Nothing else persists between commands." -/
structure Block where
  /-- The strapped bus address (R25). -/
  address    : BusAddr
  /-- The cache registers (R21). -/
  cache      : Cache
  /-- An interrupt pin is bound (R26). -/
  intBound   : Bool
  /-- The bound external pin; meaningful only while `intBound` (R26). -/
  intPin     : Tok
  /-- The top-level handler; meaningful only while `intBound` (R26). -/
  intHandler : Tok
  /-- The watcher table `w[0..7]` (R27). -/
  watch      : Vector (Option Tok) 8
  /-- At least one service sequence was aborted (R31). -/
  asyncFault : Bool
  /-- `pulse[S]` (R30). -/
  pulseS     : Pulse
  /-- `pulse[A]` (R30). -/
  pulseA     : Pulse
  /-- The service sequence (R30). -/
  svc        : Svc
  /-- The DISP commands in progress on port S, innermost first: a handler may issue DISP (R30; 42 R166). -/
  dispS      : List Fanout
  /-- The DISP commands in progress on port A, innermost first. -/
  dispA      : List Fanout
deriving DecidableEq, Repr

/-! ### The environment's inputs (R8, R264) -/

/-- One move of an agent, or one grant of the arbiter. -/
inductive Move where
  /-- Port `p` issues a command word. -/
  | command (p : Port) (w : CmdWord)
  /-- The host edge detector's event is served (30_encoding.md R93). -/
  | edge
  /-- The arbiter lets the sequence in progress on port `p` take its next step; `k` picks the handler a fan-out invokes. -/
  | advance (p : Port) (k : Nat)
  /-- The handler running on port `p` returns. -/
  | ret (p : Port)
deriving DecidableEq, Repr

/-- What the bus target does with one transaction: answers, or never answers (70 R263). -/
inductive BusAnswer where
  | reply (r : BusReply)
  | silent
deriving DecidableEq, Repr

/-- What the external-pin capability does with one call: answers, or never answers (70 R263). -/
inductive XPinAnswer where
  | reply (r : XPinReply)
  | silent
deriving DecidableEq, Repr

/-- The inputs still to come. Where a script is exhausted the model takes a free value (Config), at a fresh index. -/
structure Env where
  /-- The moves of the agents and of the arbiter, in the order they are served. -/
  moves : List Move
  /-- The bus target's answers, one for each transaction. -/
  bus   : List BusAnswer
  /-- The external-pin capability's answers, one for each call. -/
  xpin  : List XPinAnswer
  /-- The readings of the time source. -/
  clock : List Nat
  /-- The index of the next free value: the model's own field, no register of the block. -/
  tick  : Nat
deriving DecidableEq, Repr

/-! ### The histories (R33) -/

/-- The outcome of a bus write. -/
inductive WriteReply where
  | ok
  | err (e : Byte)
deriving DecidableEq, Repr

/-- One bus transaction: kind, address, register, byte, outcome (R33, R91). -/
inductive BusTxn where
  | read (a : BusAddr) (r : Reg) (reply : BusReply)
  | write (a : BusAddr) (r : Reg) (b : Byte) (reply : WriteReply)
deriving DecidableEq, Repr

/-- An output event (30_encoding.md R90). -/
inductive Event where
  /-- `TOP(tok, b)`: invoke the top-level handler with the masked byte. -/
  | top (h : Tok) (b : Byte)
  /-- `PIN(tok, i)`: invoke a pin handler with the pin. -/
  | pin (h : Tok) (i : PinIdx)
  /-- `ASYNC_ERR(e)`: report a fatal-in-callback error. -/
  | asyncErr (e : Byte)
deriving DecidableEq, Repr

/-- A call on the external-pin port (30_encoding.md R92). -/
inductive XPinCall where
  | setDirectionIn (xp : Tok)
  | watchFalling (xp : Tok)
  | release (xp : Tok)
deriving DecidableEq, Repr

/-- The response classes of 30_encoding.md R89. -/
inductive Status where
  | ok
  | errBus
  | errConflict
  | errUnsupported
  | errFatalCallback
  | errIllegal
  | errXPin
deriving DecidableEq, Repr

/-- A response: the port it is delivered to, its word, and PPULSE's `dur` on the side port (30_encoding.md R88). -/
structure Response where
  port : Port
  word : RspWord
  dur  : Option Nat
deriving DecidableEq, Repr

/-- The histories, oldest first (R33): no rule of the block reads them. -/
structure Hist where
  bus       : List BusTxn
  events    : List Event
  xpin      : List (XPinCall × XPinReply)
  responses : List Response
deriving DecidableEq, Repr

/-! ### The machine's state -/

/-- The block, the parameter `DISPATCH_MODE` (00_scope.md R7), the port whose command `exec` runs, the inputs to come
and the histories. -/
structure State where
  block : Block
  mode  : DispatchMode
  turn  : Port
  env   : Env
  hist  : Hist
deriving DecidableEq, Repr

/-- The ways the machine stops. None is an error ending of a command: those are responses (60_exceptions.md R200). -/
inductive Fault where
  /-- Raised by every operation that makes a bus transaction when the bus target never answers it: the command, and with
  it the arbiter, hangs (70 R263, R264). A stuck state: safe. -/
  | busSilent
  /-- Raised by SETINT and CLOSE when an external-pin call is never answered (70 R263, R264). A stuck state: safe. -/
  | xpinSilent
  /-- Raised by `step`: port `p` issues a command before the response to the one before, which R264 assumes never. Safe:
  the machine stops where the spec gives no move. -/
  | commandBeforeResponse (p : Port)
  /-- Raised by `step`: a command on port A while no handler runs there (60 R220: port A first acts at an edge event). Safe. -/
  | portAIdle
  /-- Raised by `step`: a return on port `p` where no handler runs, which R264 assumes never. Safe. -/
  | returnWithoutHandler (p : Port)
  /-- Raised by `step`: an edge event served while a service sequence runs, which R213 and R264 assume never. Safe. -/
  | edgeDuringService
  /-- Raised by PPULSE's last poll: the time source runs backwards within one PPULSE, which R264 assumes never. Safe. -/
  | timeBackwards
deriving DecidableEq, Repr

/-- Why the machine would have no meaning for a command. -/
inductive Refusal where
  /-- Raised by an arm of `exec` without a meaning: no arm is one. Safe. -/
  | notModelled (mnemonic : String)
deriving DecidableEq, Repr

/-- The outcome of a step. -/
abbrev Out := Host.Outcome State Fault Refusal

/-! ### Reset (R36; 70_reset_and_hazards.md R240, R241) -/

/-- The record after construction with the strap `a` and cache reset bytes `c` (R36). `intPin` and `intHandler` are
unspecified there and are 0x00 here (DESIGN CHOICE, notes/assumptions/2.md). -/
def Block.resetAt (a : BusAddr) (c : Reg → Byte) : Block where
  address := a
  cache := ⟨c .inp, c .out, c .pol, c .cfg⟩
  intBound := false
  intPin := 0x00
  intHandler := 0x00
  watch := Vector.replicate 8 none
  asyncFault := false
  pulseS := .idle
  pulseA := .idle
  svc := .idle
  dispS := []
  dispA := []

/-- No scripted input. -/
def Env.empty : Env where
  moves := []
  bus := []
  xpin := []
  clock := []
  tick := 0

/-- Empty histories (R36). -/
def Hist.empty : Hist where
  bus := []
  events := []
  xpin := []
  responses := []

/-- The machine after construction with the parameters of R7. -/
def State.resetAt (a : BusAddr) (c : Reg → Byte) (m : DispatchMode) : State where
  block := Block.resetAt a c
  mode := m
  turn := .portS
  env := Env.empty
  hist := Hist.empty

/-- The machine right after reset (R36, R240): the address is free, `CACHE_RESET` and `DISPATCH_MODE` as R7 takes them. -/
def State.reset : State := State.resetAt Config.address Config.cacheReset Config.dispatchMode

end Sys2Proof.Machine
end

