-- ==== Sys2Proof/Machine/Flags.lean ====
section
/-! DEFINITION. The block has no condition codes and no arithmetic flags (10_state.md R29). Its single-bit state is
`intBound`, the eight valid bits of the watcher table and `asyncFault`; these are the operations that change them. -/

namespace Sys2Proof.Machine

/-- SETINT's record of a binding (R26; 40_register_cache.md R117). -/
def State.bindInt (xp h : Tok) (s : State) : State :=
  { s with block := { s.block with intPin := xp, intHandler := h, intBound := true } }

/-- CLOSE's release of the binding: `intBound` only (R26; 40_register_cache.md R119). -/
def State.unbindInt (s : State) : State := { s with block := { s.block with intBound := false } }

/-- `asyncFault <- 1` (R31; 60_exceptions.md R211). -/
def State.setAsyncFault (s : State) : State := { s with block := { s.block with asyncFault := true } }

/-- `w[i] <- some(h)`: inserts or overwrites (R27; 42_interrupt_dispatcher.md R160). -/
def State.setWatch (i : PinIdx) (h : Tok) (s : State) : State :=
  { s with block := { s.block with watch := s.block.watch.set i (some h) } }

/-- A dispatch in progress notes that entry `i` was removed (R164). -/
def Fanout.noteRemoved (i : PinIdx) (f : Fanout) : Fanout := { f with missable := i :: f.missable }

/-- The service sequence's fan-out notes a removal (R164). -/
def Svc.noteRemoved (i : PinIdx) : Svc → Svc
  | .fanout f => .fanout (f.noteRemoved i)
  | v => v

/-- Every dispatch in progress notes a removal (R164, live mode). -/
def Block.noteRemoved (i : PinIdx) (b : Block) : Block :=
  { b with
    svc := b.svc.noteRemoved i
    dispS := b.dispS.map (Fanout.noteRemoved i)
    dispA := b.dispA.map (Fanout.noteRemoved i) }

/-- `w[i] <- none` (R27; 42_interrupt_dispatcher.md R161). In live mode the dispatches in progress note it; in snapshot
mode none of them changes (R163). -/
def State.clearWatch (i : PinIdx) (s : State) : State :=
  let b := { s.block with watch := s.block.watch.set i none }
  { s with block := match s.mode with
    | .snapshot => b
    | .live => b.noteRemoved i }

end Sys2Proof.Machine
end

