-- ==== Sys2Proof/Machine/Operands.lean ====
section
/-! DEFINITION. The operand arithmetic of the block (00_scope.md R10, R11, 41_digital_pin.md R131): masks, the merge,
the bit test, and the selection of a fan-out. -/

namespace Sys2Proof.Machine

/-- `bitMask(i) = 1 << i` as a byte (R10). -/
def bitMask (i : PinIdx) : Byte := 1#8 <<< i.val

/-- `clearMask(i) = ~bitMask(i) & 0xFF` (R10). -/
def clearMask (i : PinIdx) : Byte := ~~~(bitMask i) &&& 0xFF#8

/-- The merge of a 1-bit value into a cached byte (R131): `(x & clearMask(i)) | (v = 1 ? bitMask(i) : 0x00)`. -/
def mergeBit (x : Byte) (i : PinIdx) (v : Bool) : Byte := (x &&& clearMask i) ||| (if v then bitMask i else 0x00#8)

/-- The test `b & bitMask(i) != 0x00` (R11, R136, R162). -/
def pinHigh (b : Byte) (i : PinIdx) : Bool := b &&& bitMask i != 0x00#8

/-- The level PREAD reads: "logical low if the bit is clear after masking, high otherwise" (R136). -/
def pinLevel (b : Byte) (i : PinIdx) : Level := if pinHigh b i then .high else .low

/-- The value byte of a level in a response (30_encoding.md R89): 0x01 for `high`, 0x00 for `low`. -/
def levelValue : Level → Byte
  | .low => 0x00
  | .high => 0x01

/-- The eight pin indices. -/
def allPins : List PinIdx := [0, 1, 2, 3, 4, 5, 6, 7]

/-- `{ (i, h) | w[i] = some(h) and b & bitMask(i) != 0x00 }` (42_interrupt_dispatcher.md R162). -/
def selectPairs (w : Vector (Option Tok) 8) (b : Byte) : List (PinIdx × Tok) :=
  allPins.filterMap fun i => if pinHigh b i then (w.get i).map fun h => (i, h) else none

/-- The code of a status (30_encoding.md R89, 60_exceptions.md R200). -/
def Status.code : Status → BitVec 4
  | .ok => 0
  | .errBus => 1
  | .errConflict => 2
  | .errUnsupported => 3
  | .errFatalCallback => 4
  | .errIllegal => 5
  | .errXPin => 6

/-- The response word `ssss0000vvvvvvvv` (30_encoding.md R88). -/
def responseWord (st : Status) (v : Byte) : RspWord := st.code.setWidth 16 <<< 12 ||| v.setWidth 16

end Sys2Proof.Machine
end

