-- ==== Sys2Proof/Machine/Ops.lean ====
section
/-! DEFINITION. The operations the commands share: the state's accessors, one bus transaction, the write and read
contracts (40_register_cache.md R108, R109), one external-pin call, responses and errors (30_encoding.md R88, R89,
60_exceptions.md R200), the fan-out (42_interrupt_dispatcher.md R162 to R165), and the block's only trap: entering a
service sequence, aborting it, and a handler's return (60_exceptions.md R210, R211, R214). -/

namespace Sys2Proof.Machine

/-! ### Accessors -/

/-- The cache register `r` of a cache. -/
def Cache.get (c : Cache) : Reg → Byte
  | .inp => c.inp
  | .out => c.out
  | .pol => c.pol
  | .cfg => c.cfg

/-- The cache with register `r` replaced. -/
def Cache.set (c : Cache) (r : Reg) (b : Byte) : Cache :=
  match r with
  | .inp => { c with inp := b }
  | .out => { c with out := b }
  | .pol => { c with pol := b }
  | .cfg => { c with cfg := b }

/-- `x[r]` (00_scope.md R12). -/
def State.x (s : State) (r : Reg) : Byte := s.block.cache.get r

/-- `x[r] <- b`: no other register changes (R108). -/
def State.setX (r : Reg) (b : Byte) (s : State) : State :=
  { s with block := { s.block with cache := s.block.cache.set r b } }

/-- `pulse[p]` (10_state.md R30). -/
def Block.pulse (b : Block) : Port → Pulse
  | .portS => b.pulseS
  | .portA => b.pulseA

/-- `pulse[p] <- v`. -/
def State.setPulse (p : Port) (v : Pulse) (s : State) : State :=
  match p with
  | .portS => { s with block := { s.block with pulseS := v } }
  | .portA => { s with block := { s.block with pulseA := v } }

/-- The DISP commands in progress on port `p`, innermost first. -/
def Block.disp (b : Block) : Port → List Fanout
  | .portS => b.dispS
  | .portA => b.dispA

/-- Replaces the DISP commands in progress on port `p`. -/
def State.setDisp (p : Port) (fs : List Fanout) (s : State) : State :=
  match p with
  | .portS => { s with block := { s.block with dispS := fs } }
  | .portA => { s with block := { s.block with dispA := fs } }

/-- Replaces the phase of the service sequence. -/
def State.setSvc (v : Svc) (s : State) : State := { s with block := { s.block with svc := v } }

/-! ### Histories (10_state.md R33) and responses -/

/-- Appends a transaction to the bus history. -/
def State.logBus (t : BusTxn) (s : State) : State := { s with hist := { s.hist with bus := s.hist.bus ++ [t] } }

/-- `emit` (00_scope.md R12): appends an event to the event history. -/
def State.emit (e : Event) (s : State) : State := { s with hist := { s.hist with events := s.hist.events ++ [e] } }

/-- Records an external-pin call and its answer. -/
def State.logXPin (c : XPinCall) (r : XPinReply) (s : State) : State :=
  { s with hist := { s.hist with xpin := s.hist.xpin ++ [(c, r)] } }

/-- Delivers a response to port `p` (30_encoding.md R88). -/
def State.respondOn (p : Port) (st : Status) (v : Byte) (dur : Option Nat) (s : State) : State :=
  { s with hist := { s.hist with responses := s.hist.responses ++ [⟨p, responseWord st v, dur⟩] } }

/-- `respond` to the port whose command runs, without `dur`. -/
def State.respond (st : Status) (v : Byte) (s : State) : State := s.respondOn s.turn st v none

/-- The error endings of a command (60_exceptions.md R200). -/
inductive Raise where
  | busError (e : Byte)
  | configConflict
  | notSupported
  | illegal
  | xpinError
deriving DecidableEq, Repr

/-- The status of an error ending (R200). -/
def Raise.status : Raise → Status
  | .busError _ => .errBus
  | .configConflict => .errConflict
  | .notSupported => .errUnsupported
  | .illegal => .errIllegal
  | .xpinError => .errXPin

/-- The value recorded with an error ending: the bus payload unchanged, else 0x00 (R200). -/
def Raise.value : Raise → Byte
  | .busError e => e
  | _ => 0x00

/-- `raise E(info)`: the command ends here with the status of `E`; no later state is written (R12, R200). -/
def State.raise (r : Raise) (s : State) : State := s.respond r.status r.value

/-- `raise` on a named port. -/
def State.raiseOn (p : Port) (r : Raise) (s : State) : State := s.respondOn p r.status r.value none

/-! ### One bus transaction (20_memory.md R50, R56) -/

/-- The bus target never answers the next transaction (70_reset_and_hazards.md R263). -/
def State.busSilent (s : State) : Bool :=
  match s.env.bus with
  | .silent :: _ => true
  | _ => false

/-- The bus target's answer to the next transaction: the script's, else a free value (R56: any answer is legal). -/
def State.busReply (s : State) : BusReply :=
  match s.env.bus with
  | .reply r :: _ => r
  | _ => Config.freeBus s.env.tick

/-- The answer is used up. -/
def State.tookBus (s : State) : State :=
  { s with env := { s.env with bus := s.env.bus.tail, tick := s.env.tick + 1 } }

/-- The write's view of an answer: the byte of a success is not meaningful (30_encoding.md R91). -/
def writeReplyOf : BusReply → WriteReply
  | .ok _ => .ok
  | .err e => .err e

/-- `MemRead(r, 1)`: one bus read at `ADDRESS` (00_scope.md R12). -/
def memRead (r : Reg) (s : State) : BusReply × State :=
  (s.busReply, s.tookBus.logBus (.read s.block.address r s.busReply))

/-- `MemWrite(r, 1, v)`: one bus write at `ADDRESS` (00_scope.md R12). -/
def memWrite (r : Reg) (b : Byte) (s : State) : WriteReply × State :=
  (writeReplyOf s.busReply, s.tookBus.logBus (.write s.block.address r b (writeReplyOf s.busReply)))

/-- A step with one bus transaction: it hangs where the bus target never answers (R263), else ends in `t`. -/
def guardBus (s t : State) : Out := if s.busSilent then .fault .busSilent else .next t

/-! ### The two contracts (R108, R109) -/

/-- `Write(r, b)`: the bus write first; the cache takes the byte only after it succeeded (R108). -/
def deviceWrite (r : Reg) (b : Byte) (s : State) : WriteReply × State :=
  match memWrite r b s with
  | (.ok, s1) => (.ok, s1.setX r b)
  | (.err e, s1) => (.err e, s1)

/-- `Read(r)`: a bus read whatever the cache holds; the cache takes the byte on success (R109). -/
def deviceRead (r : Reg) (s : State) : BusReply × State :=
  match memRead r s with
  | (.ok b, s1) => (.ok b, s1.setX r b)
  | (.err e, s1) => (.err e, s1)

/-- `Write(r, b); respond(OK, 0x00)`, or the bus error (R110 to R112). -/
def writeCommand (r : Reg) (b : Byte) (s : State) : State :=
  match deviceWrite r b s with
  | (.ok, s1) => s1.respond .ok 0x00
  | (.err e, s1) => s1.raise (.busError e)

/-- `b <- Read(r); respond(OK, b)`, or the bus error (R113 to R116). -/
def readCommand (r : Reg) (s : State) : State :=
  match deviceRead r s with
  | (.ok b, s1) => s1.respond .ok b
  | (.err e, s1) => s1.raise (.busError e)

/-- The masked merge against the cache, then the write (41_digital_pin.md R131 to R134). -/
def mergeCommand (r : Reg) (i : PinIdx) (v : Bool) (s : State) : State := writeCommand r (mergeBit (s.x r) i v) s

/-! ### One external-pin call (30_encoding.md R92) -/

/-- The capability never answers the next call (R263). -/
def State.xpinSilent (s : State) : Bool :=
  match s.env.xpin with
  | .silent :: _ => true
  | _ => false

/-- The capability's answer to the next call: the script's, else a free value (R264: it may fail any call). -/
def State.xpinReply (s : State) : XPinReply :=
  match s.env.xpin with
  | .reply r :: _ => r
  | _ => Config.freeXPin s.env.tick

/-- The answer is used up. -/
def State.tookXPin (s : State) : State :=
  { s with env := { s.env with xpin := s.env.xpin.tail, tick := s.env.tick + 1 } }

/-- `XPin.op(t, ...)` (00_scope.md R12). -/
def xpinCall (c : XPinCall) (s : State) : XPinReply × State := (s.xpinReply, s.tookXPin.logXPin c s.xpinReply)

/-! ### The time source (41_digital_pin.md R140, 60_exceptions.md R219) -/

/-- `Now()` at the start of a measurement. -/
def State.startTime (s : State) : Nat :=
  match s.env.clock with
  | t :: _ => t
  | [] => Config.freeTime s.env.tick

/-- `Now()` at the end of a measurement begun at `t0`: a free reading is not before it (R264). -/
def State.endTime (t0 : Nat) (s : State) : Nat :=
  match s.env.clock with
  | t :: _ => t
  | [] => t0 + Config.freeTime s.env.tick

/-- The reading is used up. -/
def State.tookTime (s : State) : State :=
  { s with env := { s.env with clock := s.env.clock.tail, tick := s.env.tick + 1 } }

/-! ### The fan-out (R162 to R165) -/

/-- The copy taken at the start of a dispatch of byte `b` (R162, R163). -/
def startFanout (b : Byte) (s : State) : Fanout where
  byte := b
  pending := selectPairs s.block.watch b
  running := none
  invoked := []
  missable := []

/-- In live mode, the entries of the table as it stands that this dispatch may also reach (R164). -/
def Fanout.fresh (w : Vector (Option Tok) 8) (f : Fanout) : List (PinIdx × Tok) :=
  (selectPairs w f.byte).filter fun q => !(f.invoked.contains q.1) && !(f.pending.contains q)

/-- The pairs the fan-out may invoke next: those of the snapshot (R163); in live mode also those of the table as it
stands, each entry with its old or its new token (R164). -/
def Fanout.candidates (m : DispatchMode) (w : Vector (Option Tok) 8) (f : Fanout) : List (PinIdx × Tok) :=
  match m with
  | .snapshot => f.pending
  | .live => f.pending ++ f.fresh w

/-- The pairs the fan-out must still invoke: all of the snapshot (R163); in live mode those no command removed (R164). -/
def Fanout.obliged (m : DispatchMode) (f : Fanout) : List (PinIdx × Tok) :=
  match m with
  | .snapshot => f.pending
  | .live => f.pending.filter fun q => !(f.missable.contains q.1)

/-- The pair invoked next under the choice `k`, or `none` where the dispatch ends: any order (R165), and an end only
when nothing is owed. -/
def Fanout.pick (m : DispatchMode) (w : Vector (Option Tok) 8) (k : Nat) (f : Fanout) : Option (PinIdx × Tok) :=
  (f.candidates m w)[k % ((f.candidates m w).length + if (f.obliged m).isEmpty then 1 else 0)]?

/-- The fan-out with the handler of `q` invoked: its entry is not invoked again. -/
def Fanout.invoke (q : PinIdx × Tok) (f : Fanout) : Fanout :=
  { f with
    pending := f.pending.filter fun r => r.1 != q.1
    running := some q
    invoked := q.1 :: f.invoked }

/-- The fan-out with its handler returned. -/
def Fanout.returned (f : Fanout) : Fanout := { f with running := none }

/-- Nothing is left to invoke and no handler runs. In live mode the end is a choice and comes with `pick`. -/
def Fanout.over (m : DispatchMode) (f : Fanout) : Bool :=
  match m with
  | .snapshot => f.pending.isEmpty && f.running.isNone
  | .live => false

/-- The innermost DISP of port `p` ends: `respond(OK, 0x00)` (R162). -/
def endDisp (p : Port) (rest : List Fanout) (s : State) : State := (s.setDisp p rest).respondOn p .ok 0x00 none

/-- The innermost DISP of port `p` stands at `f`; it ends at once where it is over (R88). -/
def settleDisp (p : Port) (f : Fanout) (rest : List Fanout) (s : State) : State :=
  if f.over s.mode then endDisp p rest s else s.setDisp p (f :: rest)

/-- The service sequence's fan-out stands at `f`; the sequence ends where it is over. -/
def settleSvc (f : Fanout) (s : State) : State :=
  if f.over s.mode then s.setSvc .idle else s.setSvc (.fanout f)

/-- DISP's atomic step on the port whose command runs: taking the snapshot (R162; 20_memory.md R58 kind 4). -/
def startDisp (b : Byte) (s : State) : State := settleDisp s.turn (startFanout b s) (s.block.disp s.turn) s

/-- The innermost DISP of port `p` invokes its next handler, or ends (R162, R165). -/
def advanceDisp (p : Port) (k : Nat) (f : Fanout) (rest : List Fanout) (s : State) : State :=
  match f.pick s.mode s.block.watch k with
  | some q => (s.setDisp p (f.invoke q :: rest)).emit (.pin q.2 q.1)
  | none => endDisp p rest s

/-- The service sequence's fan-out invokes its next handler, or ends the sequence (R210 step (4)). -/
def advanceSvc (k : Nat) (f : Fanout) (s : State) : State :=
  match f.pick s.mode s.block.watch k with
  | some q => (s.setSvc (.fanout (f.invoke q))).emit (.pin q.2 q.1)
  | none => s.setSvc .idle

/-! ### The trap: entry, abort, return (R210, R211, R214) -/

/-- R211, the atomic step after a failed read: `asyncFault <- 1`; the report is still to go out. -/
def serviceAbort (e : Byte) (s : State) : State := s.setAsyncFault.setSvc (.report e)

/-- R210, the atomic step: read the input register, mask it with the cached configuration, latch the handler. Nothing is
saved: the block has no mode, mask or stack. -/
def serviceEntry (s : State) : State :=
  match deviceRead .inp s with
  | (.ok b, s1) => s1.setSvc (.top s.block.intHandler (b &&& s1.x .cfg) false)
  | (.err e, s1) => s1.setSvc (.failed e)

/-- The handler running on port `p` returns (R214): its fan-out goes on or ends; after the top-level handler the fan-out
of the same masked byte begins with a snapshot of its own (R210 step (4)). Nothing is restored. -/
def handlerReturn (p : Port) (s : State) : State :=
  match s.block.disp p, p, s.block.svc with
  | f :: rest, _, _ => settleDisp p f.returned rest s
  | [], .portA, .top _ m true => settleSvc (startFanout m s) s
  | [], .portA, .fanout f => settleSvc f.returned s
  | [], _, _ => s

end Sys2Proof.Machine
end

