-- ==== Sys2Proof/Machine/Device.lean ====
section
/-! DEFINITION. The Register Cache (Device) commands (40_register_cache.md R108 to R120). Each is one atomic step. -/

namespace Sys2Proof.Machine

/-- WRCFG (R110). -/
def execWrcfg (b : Byte) (s : State) : Out := guardBus s (writeCommand .cfg b s)

/-- WRPOL (R111). -/
def execWrpol (b : Byte) (s : State) : Out := guardBus s (writeCommand .pol b s)

/-- WROUT (R112): a blind overwrite of all 8 bits. -/
def execWrout (b : Byte) (s : State) : Out := guardBus s (writeCommand .out b s)

/-- RDIN (R113). -/
def execRdin (s : State) : Out := guardBus s (readCommand .inp s)

/-- RDOUT (R114). -/
def execRdout (s : State) : Out := guardBus s (readCommand .out s)

/-- RDCFG (R115). -/
def execRdcfg (s : State) : Out := guardBus s (readCommand .cfg s)

/-- RDPOL (R116). -/
def execRdpol (s : State) : Out := guardBus s (readCommand .pol s)

/-- SETINT after its first call, whose answer is `r`: the second call, then the binding, recorded last (R117, D16). -/
def setintFinish (xp h : Tok) (r : XPinReply) (s : State) : State :=
  match r with
  | .fail => s.raise .xpinError
  | .ok =>
    match xpinCall (.watchFalling xp) s with
    | (.ok, s1) => (s1.bindInt xp h).respond .ok 0x00
    | (.fail, s1) => s1.raise .xpinError

/-- SETINT (R117): the conflict test comes before any external-pin call (R206). -/
def execSetint (xp h : Tok) (s : State) : Out :=
  if s.block.intBound then .next (s.raise .configConflict)
  else if s.xpinSilent then .fault .xpinSilent
  else
    match xpinCall (.setDirectionIn xp) s with
    | (r, s1) => if s1.xpinSilent && r == .ok then .fault .xpinSilent else .next (setintFinish xp h r s1)

/-- CLOSE with a pin bound: release it, then clear `intBound`; a failed release leaves the binding (R119, D15). -/
def closeBound (s : State) : State :=
  match xpinCall (.release s.block.intPin) s with
  | (.ok, s1) => s1.unbindInt.respond .ok 0x00
  | (.fail, s1) => s1.raise .xpinError

/-- CLOSE (R119): with no pin bound it does nothing and succeeds. -/
def execClose (s : State) : Out :=
  if s.block.intBound then
    if s.xpinSilent then .fault .xpinSilent else .next (closeBound s)
  else .next (s.respond .ok 0x00)

end Sys2Proof.Machine
end

