-- ==== Sys2Proof/Machine/Dispatcher.lean ====
section
/-! DEFINITION. The Interrupt Dispatcher commands (42_interrupt_dispatcher.md R160 to R167). -/

namespace Sys2Proof.Machine

/-- REG (R160): inserts or overwrites the entry; no bus transaction. -/
def execReg (i : PinIdx) (h : Tok) (s : State) : Out := .next ((s.setWatch i h).respond .ok 0x00)

/-- UNREG (R161): removes the entry; no error where there is none. -/
def execUnreg (i : PinIdx) (s : State) : Out := .next ((s.clearWatch i).respond .ok 0x00)

/-- DISP (R162): its first atomic step takes the snapshot; with nothing selected the response comes at once, else after
the last handler returns. It applies no mask. -/
def execDisp (b : Byte) (s : State) : Out := .next (startDisp b s)

end Sys2Proof.Machine
end

