-- ==== Sys2Proof/Decode.lean ====
section
/-! DEFINITION. The command word (30_encoding.md R80 to R87): its fields, the total decoder, the encoder, and the
byte-wide carriage of R80. A word that is no command is answered `none`; the machine answers it with ERR_ILLEGAL. -/

namespace Sys2Proof

/-! ### Fields (R81): `oooooiiittttttttdddddddd` -/

/-- `op`, bits 23:19. -/
def fieldOp (w : CmdWord) : BitVec 5 := w.extractLsb' 19 5

/-- `idx`, bits 18:16. -/
def fieldIdx (w : CmdWord) : BitVec 3 := w.extractLsb' 16 3

/-- `tok`, bits 15:8. -/
def fieldTok (w : CmdWord) : Tok := w.extractLsb' 8 8

/-- `dat`, bits 7:0. -/
def fieldDat (w : CmdWord) : Byte := w.extractLsb' 0 8

/-- The word with these four fields: `op << 19 | idx << 16 | tok << 8 | dat` (R81). -/
def assembleWord (op : BitVec 5) (idx : BitVec 3) (tok : Tok) (dat : Byte) : CmdWord :=
  op.setWidth 24 <<< 19 ||| idx.setWidth 24 <<< 16 ||| tok.setWidth 24 <<< 8 ||| dat.setWidth 24

/-! ### Operands (R83) -/

/-- The pin index of the 3-bit field: every value is legal (R81). -/
def pinOfField (b : BitVec 3) : PinIdx := b.toFin

/-- The field of a pin index. -/
def fieldOfPin (i : PinIdx) : BitVec 3 := BitVec.ofFin i

/-- A 1-bit operand in `dat[0]`. -/
def datOfBit (b : Bool) : Byte := if b then 0x01 else 0x00

/-- R83: "`dat[0] = 1` is `in`, `dat[0] = 0` is `out`". -/
def Direction.ofBit (b : Bool) : Direction := if b then .input else .output

/-- R83. -/
def Direction.bit : Direction → Bool
  | .output => false
  | .input => true

/-- R83: "`dat[0] = 1` is `high`, 0 is `low`". -/
def Level.ofBit (b : Bool) : Level := if b then .high else .low

/-- R83. -/
def Level.bit : Level → Bool
  | .low => false
  | .high => true

/-- R83: "`dat[0] = 1` is `up`, 0 is `down`". -/
def Pull.ofBit (b : Bool) : Pull := if b then .up else .down

/-- R83. -/
def Pull.bit : Pull → Bool
  | .down => false
  | .up => true

/-- R83: 0 `none`, 1 `rising`, 2 `falling`; 3 is reserved, and with `dat[7:2]` not zero the word is illegal (R86). -/
def EdgeKind.ofDat (d : Byte) : Option EdgeKind :=
  if d = 0x00 then some .noEdge
  else if d = 0x01 then some .rising
  else if d = 0x02 then some .falling
  else none

/-- R83. -/
def EdgeKind.dat : EdgeKind → Byte
  | .noEdge => 0x00
  | .rising => 0x01
  | .falling => 0x02

/-! ### Formats (R82): a field a format does not use must be zero (R85, R86) -/

/-- Format Z: `op` only. -/
def formatZ (w : CmdWord) (c : Instr) : Option Instr :=
  if fieldIdx w = 0 ∧ fieldTok w = 0 ∧ fieldDat w = 0 then some c else none

/-- Format D: a data byte. -/
def formatD (w : CmdWord) (c : Byte → Instr) : Option Instr :=
  if fieldIdx w = 0 ∧ fieldTok w = 0 then some (c (fieldDat w)) else none

/-- Format B: the external-pin token in `dat`, the handler token in `tok`. -/
def formatB (w : CmdWord) (c : Tok → Tok → Instr) : Option Instr :=
  if fieldIdx w = 0 then some (c (fieldDat w) (fieldTok w)) else none

/-- Format P: a pin. -/
def formatP (w : CmdWord) (c : PinIdx → Instr) : Option Instr :=
  if fieldTok w = 0 ∧ fieldDat w = 0 then some (c (pinOfField (fieldIdx w))) else none

/-- Format PB: a pin and a 1-bit operand in `dat[0]`; `dat[7:1]` must be zero. -/
def formatPB (w : CmdWord) (c : PinIdx → Bool → Instr) : Option Instr :=
  if fieldTok w = 0 ∧ (fieldDat w).extractLsb' 1 7 = 0 then
    some (c (pinOfField (fieldIdx w)) ((fieldDat w).getLsbD 0))
  else none

/-- Format PT: a pin and a handler token. -/
def formatPT (w : CmdWord) (c : PinIdx → Tok → Instr) : Option Instr :=
  if fieldDat w = 0 then some (c (pinOfField (fieldIdx w)) (fieldTok w)) else none

/-- Format PTE: a pin, a handler token and an edge kind. -/
def formatPTE (w : CmdWord) (c : PinIdx → EdgeKind → Tok → Instr) : Option Instr :=
  (EdgeKind.ofDat (fieldDat w)).map fun e => c (pinOfField (fieldIdx w)) e (fieldTok w)

/-! ### The decoder (R84, R85) -/

/-- R85: total; `none` is an illegal word (R86): `op` 0x00 and 0x15 to 0x1F, a used format with stray bits, the
reserved edge kind. -/
def decode (w : CmdWord) : Option Instr :=
  match (fieldOp w).toNat with
  | 0x01 => formatD w .wrcfg
  | 0x02 => formatD w .wrpol
  | 0x03 => formatD w .wrout
  | 0x04 => formatZ w .rdin
  | 0x05 => formatZ w .rdout
  | 0x06 => formatZ w .rdcfg
  | 0x07 => formatZ w .rdpol
  | 0x08 => formatB w .setint
  | 0x09 => formatZ w .close
  | 0x0A => formatPB w fun i b => .pdir i (Direction.ofBit b)
  | 0x0B => formatPB w .pactlow
  | 0x0C => formatPB w fun i b => .pwrite i (Level.ofBit b)
  | 0x0D => formatP w .pread
  | 0x0E => formatPTE w .pwatch
  | 0x0F => formatP w .pstop
  | 0x10 => formatPB w fun i b => .ppulse i (Level.ofBit b)
  | 0x11 => formatPB w fun i b => .ppull i (Pull.ofBit b)
  | 0x12 => formatPT w .reg
  | 0x13 => formatP w .unreg
  | 0x14 => formatD w .disp
  | _ => none

/-! ### The encoder (R81, R83, R84) -/

/-- The word of a command. -/
def encode : Instr → CmdWord
  | .wrcfg b => assembleWord 0x01 0 0 b
  | .wrpol b => assembleWord 0x02 0 0 b
  | .wrout b => assembleWord 0x03 0 0 b
  | .rdin => assembleWord 0x04 0 0 0
  | .rdout => assembleWord 0x05 0 0 0
  | .rdcfg => assembleWord 0x06 0 0 0
  | .rdpol => assembleWord 0x07 0 0 0
  | .setint xp h => assembleWord 0x08 0 h xp
  | .close => assembleWord 0x09 0 0 0
  | .pdir i d => assembleWord 0x0A (fieldOfPin i) 0 (datOfBit d.bit)
  | .pactlow i a => assembleWord 0x0B (fieldOfPin i) 0 (datOfBit a)
  | .pwrite i l => assembleWord 0x0C (fieldOfPin i) 0 (datOfBit l.bit)
  | .pread i => assembleWord 0x0D (fieldOfPin i) 0 0
  | .pwatch i e h => assembleWord 0x0E (fieldOfPin i) h e.dat
  | .pstop i => assembleWord 0x0F (fieldOfPin i) 0 0
  | .ppulse i l => assembleWord 0x10 (fieldOfPin i) 0 (datOfBit l.bit)
  | .ppull i k => assembleWord 0x11 (fieldOfPin i) 0 (datOfBit k.bit)
  | .reg i h => assembleWord 0x12 (fieldOfPin i) h 0
  | .unreg i => assembleWord 0x13 (fieldOfPin i) 0 0
  | .disp b => assembleWord 0x14 0 0 b

/-! ### Carriage over a byte-wide medium (R80) -/

/-- R80: "the byte holding bits 23 to 16 goes first". -/
def bytesOfWord (w : CmdWord) : List Byte := [w.extractLsb' 16 8, w.extractLsb' 8 8, w.extractLsb' 0 8]

/-- The word three bytes carry, the first holding bits 23:16 (R80). -/
def wordOfBytes (b2 b1 b0 : Byte) : CmdWord :=
  b2.setWidth 24 <<< 16 ||| b1.setWidth 24 <<< 8 ||| b0.setWidth 24

/-- The first command of a byte stream and the rest of the stream; `none` where fewer than three bytes stand or the
word they carry is illegal. -/
def decodeBytes : List Byte → Option (Instr × List Byte)
  | b2 :: b1 :: b0 :: rest => (decode (wordOfBytes b2 b1 b0)).map (·, rest)
  | _ => none

/-- The 24-bit word that the opcode table numbers as the low `nbits` bits of `w`, the bits above being zero. -/
def tableWord (nbits w : Nat) : CmdWord := BitVec.ofNat 24 (w % 2 ^ nbits)

/-- The instruction the decoder reads from the table's word `w`: laid out as R80 carries it, then decoded. -/
def decodeTableWord (nbits w : Nat) : Option Instr := (decodeBytes (bytesOfWord (tableWord nbits w))).map (·.1)

end Sys2Proof
end

