-- ==== Sys2Proof/Machine/Pin.lean ====
section
/-! DEFINITION. The Digital Pin commands (41_digital_pin.md R130 to R142). Every one but PPULSE is one atomic step. -/

namespace Sys2Proof.Machine

/-- PDIR (R132). -/
def execPdir (i : PinIdx) (d : Direction) (s : State) : Out := guardBus s (mergeCommand .cfg i d.bit s)

/-- PACTLOW (R133): the inversion itself is the chip's doing. -/
def execPactlow (i : PinIdx) (a : Bool) (s : State) : Out := guardBus s (mergeCommand .pol i a s)

/-- PWRITE (R134): a masked merge against the cache, one bus write. -/
def execPwrite (i : PinIdx) (l : Level) (s : State) : Out := guardBus s (mergeCommand .out i l.bit s)

/-- PREAD's work (R136): a fresh read of the input register, then the bit test. -/
def preadCommand (i : PinIdx) (s : State) : State :=
  match deviceRead .inp s with
  | (.ok b, s1) => s1.respond .ok (levelValue (pinLevel b i))
  | (.err e, s1) => s1.raise (.busError e)

/-- PREAD (R136). -/
def execPread (i : PinIdx) (s : State) : Out := guardBus s (preadCommand i s)

/-- PWATCH's work (R137): force the pin to input, then register. -/
def watchCommand (i : PinIdx) (h : Tok) (s : State) : State :=
  match deviceWrite .cfg (mergeBit (s.x .cfg) i true) s with
  | (.ok, s1) => (s1.setWatch i h).respond .ok 0x00
  | (.err e, s1) => s1.raise (.busError e)

/-- PWATCH (R137): the edge kind is stored nowhere and changes nothing (R139). -/
def execPwatch (i : PinIdx) (_e : EdgeKind) (h : Tok) (s : State) : Out := guardBus s (watchCommand i h s)

/-- PSTOP (R138). -/
def execPstop (i : PinIdx) (s : State) : Out := .next ((s.clearWatch i).respond .ok 0x00)

/-! ### Pulse timing (R140): one poll is one PREAD's worth of work, one atomic step -/

/-- A failed poll ends the command: no duration is returned (R140). -/
def pollFailed (p : Port) (e : Byte) (s : State) : State := (s.setPulse p .idle).raiseOn p (.busError e)

/-- A poll of the drain phase: "wait until the pin returns to the state *opposite* `state`". -/
def drainPoll (p : Port) (i : PinIdx) (l : Level) (s : State) : State :=
  match deviceRead .inp s with
  | (.ok b, s1) => s1.setPulse p (if pinLevel b i = l then .drain i l else .waitStart i l)
  | (.err e, s1) => pollFailed p e s1

/-- A poll of the waitStart phase: "wait until it reaches `state` (start timing)"; `t0` is read when it does. -/
def startPoll (p : Port) (i : PinIdx) (l : Level) (s : State) : State :=
  match deviceRead .inp s with
  | (.ok b, s1) => if pinLevel b i = l then s1.tookTime.setPulse p (.timing i l s1.startTime) else s1
  | (.err e, s1) => pollFailed p e s1

/-- A poll of the timing phase: "wait until it returns to the opposite state (stop timing)"; the duration is the
difference of the two readings. -/
def timingPoll (p : Port) (i : PinIdx) (l : Level) (t0 : Nat) (s : State) : Out :=
  match deviceRead .inp s with
  | (.ok b, s1) =>
    if pinLevel b i = l then .next s1
    else if s1.endTime t0 < t0 then .fault .timeBackwards
    else .next ((s1.tookTime.setPulse p .idle).respondOn p .ok 0x00 (some (s1.endTime t0 - t0)))
  | (.err e, s1) => .next (pollFailed p e s1)

/-- The next poll of port `p`'s PPULSE, if one is in progress. -/
def poll (p : Port) (s : State) : Out :=
  match s.block.pulse p with
  | .idle => .next s
  | .drain i l => guardBus s (drainPoll p i l s)
  | .waitStart i l => guardBus s (startPoll p i l s)
  | .timing i l t0 => if s.busSilent then .fault .busSilent else timingPoll p i l t0 s

/-- PPULSE (R140): the command's first atomic step is the first poll of its drain phase. -/
def execPpulse (i : PinIdx) (l : Level) (s : State) : Out := guardBus s (drainPoll s.turn i l s)

/-- PPULL (R141): always ERR_UNSUPPORTED, no hardware access. -/
def execPpull (_i : PinIdx) (_k : Pull) (s : State) : Out := .next (s.raise .notSupported)

end Sys2Proof.Machine
end

