-- ==== Sys2Proof/Machine/Dispatch.lean ====
section
/-! DEFINITION. The meaning of every command, one arm each: a command's first atomic step on port `s.turn`. -/

namespace Sys2Proof.Machine
open Host

def exec (i : Instr) (s : State) : Host.Outcome State Fault Refusal :=
  match i with
  -- 40_register_cache.md
  | .wrcfg b => Sys2Proof.Machine.execWrcfg b s
  | .wrpol b => Sys2Proof.Machine.execWrpol b s
  | .wrout b => Sys2Proof.Machine.execWrout b s
  | .rdin => Sys2Proof.Machine.execRdin s
  | .rdout => Sys2Proof.Machine.execRdout s
  | .rdcfg => Sys2Proof.Machine.execRdcfg s
  | .rdpol => Sys2Proof.Machine.execRdpol s
  | .setint xp h => Sys2Proof.Machine.execSetint xp h s
  | .close => Sys2Proof.Machine.execClose s
  -- 41_digital_pin.md
  | .pdir p d => Sys2Proof.Machine.execPdir p d s
  | .pactlow p a => Sys2Proof.Machine.execPactlow p a s
  | .pwrite p l => Sys2Proof.Machine.execPwrite p l s
  | .pread p => Sys2Proof.Machine.execPread p s
  | .pwatch p e h => Sys2Proof.Machine.execPwatch p e h s
  | .pstop p => Sys2Proof.Machine.execPstop p s
  | .ppulse p l => Sys2Proof.Machine.execPpulse p l s
  | .ppull p k => Sys2Proof.Machine.execPpull p k s
  -- 42_interrupt_dispatcher.md
  | .reg p h => Sys2Proof.Machine.execReg p h s
  | .unreg p => Sys2Proof.Machine.execUnreg p s
  | .disp b => Sys2Proof.Machine.execDisp b s

end Sys2Proof.Machine
end

