-- ==== Sys2Proof/Machine/Service.lean ====
section
/-! DEFINITION. The machine between commands: which port may act (70_reset_and_hazards.md R264), the steps of the
sequences in progress (10_state.md R30), the edge event (60_exceptions.md R210, R213), the issue of a command word and
the arbiter's choice (20_memory.md R58, R59). `run` is the meaning of commands, which Step.lean supplies. -/

namespace Sys2Proof.Machine

/-! ### Who runs -/

/-- A handler invoked by the service sequence itself is running. -/
def Svc.handlerRunning : Svc → Bool
  | .top _ _ b => b
  | .fanout f => f.running.isSome
  | _ => false

/-- A handler is running on port `p`: invoked and not yet returned. -/
def State.handlerRunning (p : Port) (s : State) : Bool :=
  match s.block.disp p, p with
  | f :: _, _ => f.running.isSome
  | [], .portS => false
  | [], .portA => s.block.svc.handlerRunning

/-- Port `p` has no command outstanding and someone to issue one: on port S the caller or a handler of its DISP, on port
A a handler (R8, R220, R264). -/
def State.mayCommand (p : Port) (s : State) : Bool :=
  s.block.pulse p == .idle && (s.handlerRunning p || (p == .portS && s.block.dispS.isEmpty))

/-- The handler running on port `p` may return: it has no command outstanding. -/
def State.mayReturn (p : Port) (s : State) : Bool := s.block.pulse p == .idle && s.handlerRunning p

/-- The service sequence has a step of its own to take. -/
def Svc.hasWork : Svc → Bool
  | .idle => false
  | .top _ _ b => !b
  | .fanout f => f.running.isNone
  | .failed _ => true
  | .report _ => true

/-- Port `p` has a step of a sequence of its own to take: a poll, an invocation, a report. -/
def State.hasWork (p : Port) (s : State) : Bool :=
  s.block.pulse p != .idle ||
    match s.block.disp p, p with
    | f :: _, _ => f.running.isNone
    | [], .portS => false
    | [], .portA => s.block.svc.hasWork

/-! ### Steps of the sequences in progress -/

/-- The service sequence's next step (R210, R211): emit `TOP`, invoke a pin handler, set `asyncFault` after a failed read, or
report; nothing while a handler runs. -/
def advanceService (k : Nat) (s : State) : State :=
  match s.block.svc with
  | .top h m false => (s.setSvc (.top h m true)).emit (.top h m)
  | .fanout f => if f.running.isNone then advanceSvc k f s else s
  | .failed e => serviceAbort e s
  | .report e => (s.setSvc .idle).emit (.asyncErr e)
  | _ => s

/-- The next step of the dispatch or service sequence in progress on port `p`: nothing while a handler runs. -/
def advanceHandlers (p : Port) (k : Nat) (s : State) : State :=
  match s.block.disp p, p with
  | f :: rest, _ => if f.running.isNone then advanceDisp p k f rest s else s
  | [], .portS => s
  | [], .portA => advanceService k s

/-- The arbiter lets port `p`'s sequence take its next step; a port with none is left as it is. -/
def advance (p : Port) (k : Nat) (s : State) : Out :=
  if s.block.pulse p = .idle then .next (advanceHandlers p k s) else poll p s

/-! ### Moves -/

/-- An edge event is served (R210, R213): discarded where no pin is bound, else the read-and-mask step on port A. -/
def serveEdge (s : State) : Out :=
  if s.block.svc = .idle then
    if s.block.intBound then guardBus s (serviceEntry s) else .next s
  else .fault .edgeDuringService

/-- Why port `p` may not issue a command now. -/
def outOfTurn (p : Port) (s : State) : Fault :=
  if p = .portA ∧ s.block.pulseA = .idle ∧ s.block.dispA = [] then .portAIdle else .commandBeforeResponse p

/-- Port `p`, whose command `exec` runs next. -/
def State.onPort (p : Port) (s : State) : State := { s with turn := p }

/-- Port `p` issues the word `w` (30_encoding.md R85, R86): an illegal word is answered ERR_ILLEGAL and does nothing
else. -/
def issue (run : Instr → State → Out) (p : Port) (w : CmdWord) (s : State) : Out :=
  if s.mayCommand p then
    match decode w with
    | some i => run i (s.onPort p)
    | none => .next ((s.onPort p).raise .illegal)
  else .fault (outOfTurn p s)

/-- One scripted move. -/
def runMove (run : Instr → State → Out) (m : Move) (s : State) : Out :=
  match m with
  | .command p w => issue run p w s
  | .edge => serveEdge s
  | .advance p k => advance p k s
  | .ret p => if s.mayReturn p then .next (handlerReturn p s) else .fault (.returnWithoutHandler p)

/-- The port the arbiter serves where the script is exhausted: one with work, either where both have (R59 item 3). -/
def State.nextPort (s : State) : Option Port :=
  match s.hasWork .portS, s.hasWork .portA with
  | true, true => some (Config.freeTurn s.env.tick)
  | true, false => some .portS
  | false, true => some .portA
  | false, false => none

/-- The state with its first move taken off the script. -/
def State.withMoves (ms : List Move) (s : State) : State := { s with env := { s.env with moves := ms } }

/-- A free choice was taken. -/
def State.tookChoice (s : State) : State := { s with env := { s.env with tick := s.env.tick + 1 } }

/-- One step: the script's next move; with none left the outside issues nothing more, and the block goes on with the
work it has in progress, or rests. -/
def stepWith (run : Instr → State → Out) (s : State) : Out :=
  match s.env.moves with
  | m :: rest => runMove run m (s.withMoves rest)
  | [] =>
    match s.nextPort with
    | some p => advance p (Config.freePick s.env.tick) s.tookChoice
    | none => .next s

/-- `s` with port S free and its next move the command word `w`. -/
def placeCommand (w : CmdWord) (s : State) : State :=
  { s with
    block := { s.block with pulseS := .idle, dispS := [] }
    env := { s.env with moves := .command .portS w :: s.env.moves } }

end Sys2Proof.Machine
end

