-- ==== Sys2Proof/Safety.lean ====
section
/-! DEFINITION. What the claims speak of: the cache invariant (10_state.md R24), the discipline of the bus history
(R25, R34), the order of the sequencing state (R30; 42_interrupt_dispatcher.md R162 to R166), quiescence and the end of a
run (70_reset_and_hazards.md R263), the echo bus (20_memory.md R56), and states compared but for one field. -/

namespace Sys2Proof.Machine

/-! ### The bus history -/

/-- The byte a transaction moved, if it succeeded and was on register `r`. -/
def BusTxn.movedByte (r : Reg) : BusTxn → Option Byte
  | .read _ r' (.ok b) => if r' = r then some b else none
  | .write _ r' b .ok => if r' = r then some b else none
  | _ => none

/-- "the byte of the most recent bus transaction on register `r` that this block performed and that succeeded" (R24). -/
def lastByte (r : Reg) (h : List BusTxn) : Option Byte := (h.filterMap (BusTxn.movedByte r)).getLast?

/-- The cache invariant (R24), for the reset bytes `c`. -/
def State.CacheTracksBus (c : Reg → Byte) (s : State) : Prop := ∀ r, s.x r = (lastByte r s.hist.bus).getD (c r)

/-- The bus address a transaction carried. -/
def BusTxn.address : BusTxn → BusAddr
  | .read a _ _ => a
  | .write a _ _ _ => a

/-- The transaction is a write of register `r`. -/
def BusTxn.isWriteOf (r : Reg) : BusTxn → Bool
  | .write _ r' _ _ => r' == r
  | _ => false

/-- Every transaction is at the strapped address and none writes the input register (R25, R34). -/
def State.BusDisciplined (s : State) : Prop :=
  ∀ t ∈ s.hist.bus, t.address = s.block.address ∧ t.isWriteOf .inp = false

/-- The four bytes an echo bus holds after this history, started from `chip`; `none` if an echo bus would not have
answered so (20_memory.md R56). -/
def echoAfter (chip : Cache) : List BusTxn → Option Cache
  | [] => some chip
  | .read _ r (.ok b) :: h => if chip.get r = b then echoAfter chip h else none
  | .write _ r b .ok :: h => echoAfter (chip.set r b) h
  | _ :: _ => none

/-! ### The sequencing state -/

/-- A fan-out never owes a pair twice, names only set bits, and its running handler is one it invoked (R162, R164). -/
structure Fanout.Ok (f : Fanout) : Prop where
  once     : (f.pending.map Prod.fst ++ f.invoked).Nodup
  owedSet  : ∀ q ∈ f.pending, pinHigh f.byte q.1 = true
  ranSet   : ∀ i ∈ f.invoked, pinHigh f.byte i = true
  ranLast  : ∀ q, f.running = some q → f.invoked.head? = some q.1

/-- The sequences in progress nest as calls do: port A is busy only under a running service handler, an enclosing
dispatch waits for its handler, a PPULSE stands under a running handler or none, and no dispatch lingers (R8, R166, R214,
R220). -/
structure State.Sequenced (s : State) : Prop where
  portAQuiet   : s.block.svc.handlerRunning = false → s.block.dispA = [] ∧ s.block.pulseA = .idle
  outerRunning : ∀ p f rest, s.block.disp p = f :: rest → ∀ g ∈ rest, g.running.isSome = true
  pulseUnder   : ∀ p f rest, s.block.pulse p ≠ .idle → s.block.disp p = f :: rest → f.running.isSome = true
  dispOk       : ∀ p, ∀ f ∈ s.block.disp p, f.Ok ∧ f.over s.mode = false
  svcOk        : ∀ f, s.block.svc = .fanout f → f.Ok ∧ f.over s.mode = false

/-- The block is quiescent (R263): no command in progress, no service sequence, no handler running, "no edge event has been
delivered and not yet served or discarded". A script says when an edge event is served and not when the host delivers it,
so every edge event still in it counts as delivered (DESIGN CHOICE, notes/assumptions/28.md). -/
structure State.quiescent (s : State) : Prop where
  pulseS : s.block.pulseS = .idle
  pulseA : s.block.pulseA = .idle
  dispS  : s.block.dispS = []
  dispA  : s.block.dispA = []
  svc    : s.block.svc = .idle
  edges  : .edge ∉ s.env.moves

/-- A run is over (R263): the block is quiescent and the outside issues nothing more. -/
def State.over (s : State) : Prop := s.quiescent ∧ s.env.moves = []

/-! ### What a step leaves to the outside -/

/-- The histories grow by exactly these transactions, external-pin calls, events and responses. -/
structure Grew (s t : State) (txns : List BusTxn) (calls : List (XPinCall × XPinReply)) (evs : List Event)
    (rsps : List Response) : Prop where
  bus       : t.hist.bus = s.hist.bus ++ txns
  xpin      : t.hist.xpin = s.hist.xpin ++ calls
  events    : t.hist.events = s.hist.events ++ evs
  responses : t.hist.responses = s.hist.responses ++ rsps

/-- The parameter, the port and the moves to come are unchanged, and of the outside's answers `nb` of the bus's, `nx` of
the external pin's and `nt` of the time source's are used up. -/
structure Used (s t : State) (nb nx nt : Nat) : Prop where
  mode  : t.mode = s.mode
  turn  : t.turn = s.turn
  moves : t.env.moves = s.env.moves
  bus   : t.env.bus = s.env.bus.drop nb
  xpin  : t.env.xpin = s.env.xpin.drop nx
  clock : t.env.clock = s.env.clock.drop nt

/-- Command `i` makes one bus write of byte `b` to register `r`: on success the cache becomes `c` and the response is
OK/0x00; on failure the record is unchanged and the response is ERR_BUS with the bus's payload. Nothing else changes. -/
def WritesRegister (i : Instr) (r : Reg) (b : Byte) (c : Cache) (s : State) : Prop :=
  (∀ v, s.busReply = .ok v → ∃ t, exec i s = .next t ∧ t.block = { s.block with cache := c } ∧
    Grew s t [.write s.block.address r b .ok] [] [] [⟨s.turn, responseWord .ok 0x00, none⟩] ∧ Used s t 1 0 0) ∧
  (∀ e, s.busReply = .err e → ∃ t, exec i s = .next t ∧ t.block = s.block ∧
    Grew s t [.write s.block.address r b (.err e)] [] [] [⟨s.turn, responseWord .errBus e, none⟩] ∧ Used s t 1 0 0)

/-- Command `i` makes one bus read of register `r`: on success with byte `b` the cache becomes `c b` and the response is
OK with value `v b`; on failure the record is unchanged and the response is ERR_BUS. Nothing else changes. -/
def ReadsRegister (i : Instr) (r : Reg) (c : Byte → Cache) (v : Byte → Byte) (s : State) : Prop :=
  (∀ b, s.busReply = .ok b → ∃ t, exec i s = .next t ∧ t.block = { s.block with cache := c b } ∧
    Grew s t [.read s.block.address r (.ok b)] [] [] [⟨s.turn, responseWord .ok (v b), none⟩] ∧ Used s t 1 0 0) ∧
  (∀ e, s.busReply = .err e → ∃ t, exec i s = .next t ∧ t.block = s.block ∧
    Grew s t [.read s.block.address r (.err e)] [] [] [⟨s.turn, responseWord .errBus e, none⟩] ∧ Used s t 1 0 0)

/-- The transactions a command's first step may make at address `a` (20_memory.md R60). -/
def TransactionsOf (a : BusAddr) : Instr → List BusTxn → Prop
  | .wrcfg b, l => ∃ y, l = [.write a .cfg b y]
  | .wrpol b, l => ∃ y, l = [.write a .pol b y]
  | .wrout b, l => ∃ y, l = [.write a .out b y]
  | .rdin, l | .pread _, l | .ppulse _ _, l => ∃ y, l = [.read a .inp y]
  | .rdout, l => ∃ y, l = [.read a .out y]
  | .rdcfg, l => ∃ y, l = [.read a .cfg y]
  | .rdpol, l => ∃ y, l = [.read a .pol y]
  | .pdir _ _, l | .pwatch _ _ _, l => ∃ b y, l = [.write a .cfg b y]
  | .pactlow _ _, l => ∃ b y, l = [.write a .pol b y]
  | .pwrite _ _, l => ∃ b y, l = [.write a .out b y]
  | .setint _ _, l | .close, l | .pstop _, l | .ppull _ _, l | .reg _ _, l | .unreg _, l | .disp _, l => l = []

/-- The error endings a command has (60_exceptions.md R201). -/
def errorsOf : Instr → List Status
  | .wrcfg _ | .wrpol _ | .wrout _ | .rdin | .rdout | .rdcfg | .rdpol => [.errBus]
  | .pdir _ _ | .pactlow _ _ | .pwrite _ _ | .pread _ | .pwatch _ _ _ | .ppulse _ _ => [.errBus]
  | .setint _ _ => [.errConflict, .errXPin]
  | .close => [.errXPin]
  | .ppull _ _ => [.errUnsupported]
  | .pstop _ | .reg _ _ | .unreg _ | .disp _ => []

/-! ### Comparing outcomes but for one field -/

/-- An outcome with its next state changed by `f`. -/
def outMap (f : State → State) : Out → Out
  | .next t => .next (f t)
  | .fault r => .fault r
  | .refused r => .refused r

/-- The histories with those of `d` after them. -/
def Hist.append (h d : Hist) : Hist where
  bus := h.bus ++ d.bus
  events := h.events ++ d.events
  xpin := h.xpin ++ d.xpin
  responses := h.responses ++ d.responses

/-- The state with other histories. -/
def State.withHist (h : Hist) (s : State) : State := { s with hist := h }

/-- The state with another sticky flag. -/
def State.withAsyncFault (b : Bool) (s : State) : State := { s with block := { s.block with asyncFault := b } }

/-- The state with other tokens of the binding. -/
def State.withTokens (xp h : Tok) (s : State) : State := { s with block := { s.block with intPin := xp, intHandler := h } }

/-- The state without the tokens of the binding where no pin is bound. -/
def State.forgetUnbound (s : State) : State := if s.block.intBound then s else s.withTokens 0x00 0x00

end Sys2Proof.Machine
end

