-- ==== Sys2Proof/WellFormed.lean ====
section
/-! DEFINITION. Which 24-bit words are commands: the match and mask rows of 30_encoding.md R84 and the legality rule
of R85 and R86. Every term of `Instr` is well-formed by its types (a 3-bit index, the three edge kinds, 1-bit
operands), so the checks are made on words, where the reserved points are. Decode.lean is written separately, from
the formats of R82. -/

namespace Sys2Proof

/-- One row of the opcode map (R84): a word is the command of the row exactly when its masked bits are the pattern. -/
structure OpRow where
  mnemonic : String
  pattern  : CmdWord
  mask     : CmdWord
deriving DecidableEq, Repr

/-- R84: "a word `c` is the command of a row exactly when `c & mask = match`". -/
def OpRow.covers (r : OpRow) (w : CmdWord) : Bool := w &&& r.mask == r.pattern

/-- R84, rows of source §4.1 (Device). -/
def opTableDevice : List OpRow :=
  [⟨"WRCFG", 0x080000, 0xFFFF00⟩, ⟨"WRPOL", 0x100000, 0xFFFF00⟩, ⟨"WROUT", 0x180000, 0xFFFF00⟩,
   ⟨"RDIN", 0x200000, 0xFFFFFF⟩, ⟨"RDOUT", 0x280000, 0xFFFFFF⟩, ⟨"RDCFG", 0x300000, 0xFFFFFF⟩,
   ⟨"RDPOL", 0x380000, 0xFFFFFF⟩, ⟨"SETINT", 0x400000, 0xFF0000⟩, ⟨"CLOSE", 0x480000, 0xFFFFFF⟩]

/-- R84, rows of source §4.2 (Digital Pin); PWATCH has one row for each legal edge kind. -/
def opTablePin : List OpRow :=
  [⟨"PDIR", 0x500000, 0xF8FFFE⟩, ⟨"PACTLOW", 0x580000, 0xF8FFFE⟩, ⟨"PWRITE", 0x600000, 0xF8FFFE⟩,
   ⟨"PREAD", 0x680000, 0xF8FFFF⟩, ⟨"PWATCH", 0x700000, 0xF800FF⟩, ⟨"PWATCH", 0x700001, 0xF800FF⟩,
   ⟨"PWATCH", 0x700002, 0xF800FF⟩, ⟨"PSTOP", 0x780000, 0xF8FFFF⟩, ⟨"PPULSE", 0x800000, 0xF8FFFE⟩,
   ⟨"PPULL", 0x880000, 0xF8FFFE⟩]

/-- R84, rows of source §4.3 (Interrupt Dispatcher). -/
def opTableDispatcher : List OpRow :=
  [⟨"REG", 0x900000, 0xF800FF⟩, ⟨"UNREG", 0x980000, 0xF8FFFF⟩, ⟨"DISP", 0xA00000, 0xFFFF00⟩]

/-- The whole opcode map of R84: 22 rows, 20 mnemonics. -/
def opTable : List OpRow := opTableDevice ++ opTablePin ++ opTableDispatcher

/-- R85: a word is legal when some row covers it; otherwise it is an illegal word (R86). -/
def legalWord (w : CmdWord) : Bool := opTable.any (·.covers w)

/-- The mnemonic of a command (R84). -/
def Instr.mnemonic : Instr → String
  | .wrcfg _ => "WRCFG"
  | .wrpol _ => "WRPOL"
  | .wrout _ => "WROUT"
  | .rdin => "RDIN"
  | .rdout => "RDOUT"
  | .rdcfg => "RDCFG"
  | .rdpol => "RDPOL"
  | .setint _ _ => "SETINT"
  | .close => "CLOSE"
  | .pdir _ _ => "PDIR"
  | .pactlow _ _ => "PACTLOW"
  | .pwrite _ _ => "PWRITE"
  | .pread _ => "PREAD"
  | .pwatch _ _ _ => "PWATCH"
  | .pstop _ => "PSTOP"
  | .ppulse _ _ => "PPULSE"
  | .ppull _ _ => "PPULL"
  | .reg _ _ => "REG"
  | .unreg _ => "UNREG"
  | .disp _ => "DISP"

end Sys2Proof
end

