-- ==== Sys2Proof/Certificates/Slice0/Obligations.lean ====
section
/-! DEFINITION. The statements for the provers, from the numbered rules of the spec. `exec i s` is a command's first
atomic step on port `s.turn`; `Grew` names what the histories gain and `Used` what of the outside's answers is used up. -/

open Sys2Proof Sys2Proof.Machine

/-! ### Encoding (30_encoding.md) -/

/-- 30 R81 to R85: the word of every command, at every operand value, decodes to that command. -/
def Obligations.DecodeEncodeRoundTrip : Prop := ∀ i : Instr, decode (encode i) = some i

/-- 30 R85: each legal word has one meaning: no bit of a word that decodes is dropped. -/
def Obligations.EncodeDecodeRoundTrip : Prop := ∀ (w : CmdWord) (i : Instr), decode w = some i → encode i = w

/-- 30 R85: "To decode a word `c`: find the row of rule R84 with `c & mask = match`. If there is one it is unique ... If
there is none, `c` is an illegal word." The operands are the fields the format uses (R82, R83). -/
def Obligations.DecoderFollowsTheOpcodeMap : Prop :=
  ∀ w : CmdWord,
    (∀ i, decode w = some i → (∃! r, r ∈ opTable ∧ r.covers w = true) ∧
      (∃ r ∈ opTable, r.covers w = true ∧ r.mnemonic = i.mnemonic) ∧ encode i = w) ∧
    (decode w = none ↔ ∀ r ∈ opTable, r.covers w = false)

/-- 30 R84, R94: words written out from the opcode map and the syntax table decode to their commands. -/
def Obligations.SpecWordsDecode : Prop :=
  decode 0b000010000000000011111111 = some (.wrcfg 0xFF) ∧
  decode 0b001000000000000000000000 = some .rdin ∧
  decode 0b010000001000000000010001 = some (.setint 0x11 0x80) ∧
  decode 0b010100110000000000000001 = some (.pdir 3 .input) ∧
  decode 0b011100010010000100000010 = some (.pwatch 1 .falling 0x21) ∧
  decode 0b100000100000000000000001 = some (.ppulse 2 .high) ∧
  decode 0b100100010010000100000000 = some (.reg 1 0x21) ∧
  decode 0b101000000000000000000110 = some (.disp 0x06) ∧
  decode 0b011100010010000100000011 = none ∧ decode 0 = none

/-- 30 R86: exactly these words are illegal, and an illegal word is answered ERR_ILLEGAL/0x00 and does nothing else. -/
def Obligations.IllegalWordsAreAnsweredAndDoNothing : Prop :=
  (∀ w : CmdWord, decode w = none ↔
    (fieldOp w).toNat = 0 ∨ 0x15 ≤ (fieldOp w).toNat ∨
    ((fieldOp w).toNat ∈ [0x01, 0x02, 0x03, 0x14] ∧ ¬(fieldIdx w = 0 ∧ fieldTok w = 0)) ∨
    ((fieldOp w).toNat ∈ [0x04, 0x05, 0x06, 0x07, 0x09] ∧ ¬(fieldIdx w = 0 ∧ fieldTok w = 0 ∧ fieldDat w = 0)) ∨
    ((fieldOp w).toNat = 0x08 ∧ fieldIdx w ≠ 0) ∨
    ((fieldOp w).toNat ∈ [0x0A, 0x0B, 0x0C, 0x10, 0x11] ∧ ¬(fieldTok w = 0 ∧ (fieldDat w).toNat ≤ 1)) ∨
    ((fieldOp w).toNat ∈ [0x0D, 0x0F, 0x13] ∧ ¬(fieldTok w = 0 ∧ fieldDat w = 0)) ∨
    ((fieldOp w).toNat = 0x0E ∧ 3 ≤ (fieldDat w).toNat) ∨
    ((fieldOp w).toNat = 0x12 ∧ fieldDat w ≠ 0)) ∧
  (∀ (p : Port) (w : CmdWord) (s : State) (ms : List Move), s.env.moves = .command p w :: ms →
    s.mayCommand p = true → decode w = none →
    ∃ t, step s = .next t ∧ t.block = s.block ∧ Grew s t [] [] [] [⟨p, 0x5000, none⟩] ∧
      Used ((s.withMoves ms).onPort p) t 0 0 0)

/-- 30 R80: "the byte holding bits 23 to 16 goes first": the three bytes of a command's word, before any bytes, are read
back as that command and leave the bytes that follow. -/
def Obligations.ByteCarriageRoundTrip : Prop :=
  ∀ (i : Instr) (rest : List Byte),
    decodeBytes (bytesOfWord (encode i) ++ rest) = some (i, rest) ∧
    (bytesOfWord (encode i)).head? = some ((encode i).extractLsb' 16 8)

/-- 30 R88, R89: the response word is `ssss0000vvvvvvvv`, with the status codes of R89. -/
def Obligations.ResponseWordLayout : Prop :=
  (∀ (st : Status) (v : Byte), (responseWord st v).extractLsb' 12 4 = st.code ∧
    (responseWord st v).extractLsb' 8 4 = 0 ∧ (responseWord st v).extractLsb' 0 8 = v) ∧
  [Status.ok, .errBus, .errConflict, .errUnsupported, .errFatalCallback, .errIllegal, .errXPin].map Status.code =
    [0, 1, 2, 3, 4, 5, 6]

/-! ### Operands (00_scope.md, 41_digital_pin.md) -/

/-- 00 R10: the table of the bit and clear masks, and that they part the byte. -/
def Obligations.MasksSelectOnePin : Prop :=
  (∀ i : PinIdx, bitMask i = 1#8 <<< i.val ∧ clearMask i = ~~~(bitMask i) &&& 0xFF ∧
    bitMask i ||| clearMask i = 0xFF ∧ bitMask i &&& clearMask i = 0x00) ∧
  [0, 1, 2, 3, 4, 5, 6, 7].map bitMask = [0x01, 0x02, 0x04, 0x08, 0x10, 0x20, 0x40, 0x80] ∧
  [0, 1, 2, 3, 4, 5, 6, 7].map clearMask = [0xFE, 0xFD, 0xFB, 0xF7, 0xEF, 0xDF, 0xBF, 0x7F]

/-- 41 R131 (whose merge source for PDIR and PACTLOW is the spec's decision D9): PDIR, PACTLOW and PWRITE each write,
through the bus and then into the cache, the byte whose bit `i` is the operand and whose other bits are those of the
cached register; no bus read is made. -/
def Obligations.PinWritesMergeAgainstTheCache : Prop :=
  ∀ (i : PinIdx) (s : State), s.busSilent = false →
    (∀ d : Direction, ∃ n : Byte, (∀ k < 8, n.getLsbD k = if k = i.val then decide (d = .input) else (s.x .cfg).getLsbD k) ∧
      WritesRegister (.pdir i d) .cfg n { s.block.cache with cfg := n } s) ∧
    (∀ a : Bool, ∃ n : Byte, (∀ k < 8, n.getLsbD k = if k = i.val then a else (s.x .pol).getLsbD k) ∧
      WritesRegister (.pactlow i a) .pol n { s.block.cache with pol := n } s) ∧
    (∀ l : Level, ∃ n : Byte, (∀ k < 8, n.getLsbD k = if k = i.val then decide (l = .high) else (s.x .out).getLsbD k) ∧
      WritesRegister (.pwrite i l) .out n { s.block.cache with out := n } s)

/-! ### The Register Cache commands (40_register_cache.md) -/

/-- 40 R108 (with R110, R111, R112): WRCFG, WRPOL and WROUT write the bus first, always, and update only their own cache
register, only if the bus write succeeds; on failure the cache is unchanged and the error is the response. -/
def Obligations.RegisterWritesFollowTheWriteContract : Prop :=
  ∀ (b : Byte) (s : State), s.busSilent = false →
    WritesRegister (.wrcfg b) .cfg b { s.block.cache with cfg := b } s ∧
    WritesRegister (.wrpol b) .pol b { s.block.cache with pol := b } s ∧
    WritesRegister (.wrout b) .out b { s.block.cache with out := b } s

/-- 40 R109 (with R113 to R116): the four reads read the bus whatever the cache holds, take the byte into the matching
cache register on success and return it; on failure they return the error and leave the cache untouched. -/
def Obligations.RegisterReadsFollowTheReadContract : Prop :=
  ∀ s : State, s.busSilent = false →
    ReadsRegister .rdin .inp (fun b => { s.block.cache with inp := b }) id s ∧
    ReadsRegister .rdout .out (fun b => { s.block.cache with out := b }) id s ∧
    ReadsRegister .rdcfg .cfg (fun b => { s.block.cache with cfg := b }) id s ∧
    ReadsRegister .rdpol .pol (fun b => { s.block.cache with pol := b }) id s

/-- 40 R117, 60 R206: SETINT tests for a conflict before any external-pin call; else it makes the two calls in order, and
records the binding only after both succeeded. It makes no bus transaction. -/
def Obligations.SetintBindsAfterBothCalls : Prop :=
  ∀ (xp h : Tok) (s : State),
    (s.block.intBound = true → ∃ t, exec (.setint xp h) s = .next t ∧ t.block = s.block ∧
      Grew s t [] [] [] [⟨s.turn, responseWord .errConflict 0x00, none⟩] ∧ Used s t 0 0 0) ∧
    (s.block.intBound = false → s.xpinSilent = false → s.xpinReply = .fail → ∃ t, exec (.setint xp h) s = .next t ∧
      t.block = s.block ∧
      Grew s t [] [(.setDirectionIn xp, .fail)] [] [⟨s.turn, responseWord .errXPin 0x00, none⟩] ∧ Used s t 0 1 0) ∧
    (s.block.intBound = false → s.xpinSilent = false → s.xpinReply = .ok → s.tookXPin.xpinSilent = false →
      s.tookXPin.xpinReply = .fail → ∃ t, exec (.setint xp h) s = .next t ∧ t.block = s.block ∧
      Grew s t [] [(.setDirectionIn xp, .ok), (.watchFalling xp, .fail)] []
        [⟨s.turn, responseWord .errXPin 0x00, none⟩] ∧ Used s t 0 2 0) ∧
    (s.block.intBound = false → s.xpinSilent = false → s.xpinReply = .ok → s.tookXPin.xpinSilent = false →
      s.tookXPin.xpinReply = .ok → ∃ t, exec (.setint xp h) s = .next t ∧
      t.block = { s.block with intPin := xp, intHandler := h, intBound := true } ∧
      Grew s t [] [(.setDirectionIn xp, .ok), (.watchFalling xp, .ok)] [] [⟨s.turn, responseWord .ok 0x00, none⟩] ∧
      Used s t 0 2 0)

/-- 40 R119: CLOSE releases a bound pin and clears `intBound`, leaving all else; with none bound it does nothing and
succeeds; if the release fails the binding stays. -/
def Obligations.CloseReleasesTheBinding : Prop :=
  ∀ s : State,
    (s.block.intBound = false → ∃ t, exec .close s = .next t ∧ t.block = s.block ∧
      Grew s t [] [] [] [⟨s.turn, responseWord .ok 0x00, none⟩] ∧ Used s t 0 0 0) ∧
    (s.block.intBound = true → s.xpinSilent = false → s.xpinReply = .ok → ∃ t, exec .close s = .next t ∧
      t.block = { s.block with intBound := false } ∧
      Grew s t [] [(.release s.block.intPin, .ok)] [] [⟨s.turn, responseWord .ok 0x00, none⟩] ∧ Used s t 0 1 0) ∧
    (s.block.intBound = true → s.xpinSilent = false → s.xpinReply = .fail → ∃ t, exec .close s = .next t ∧
      t.block = s.block ∧
      Grew s t [] [(.release s.block.intPin, .fail)] [] [⟨s.turn, responseWord .errXPin 0x00, none⟩] ∧ Used s t 0 1 0)

/-! ### The Digital Pin commands (41_digital_pin.md) -/

/-- 41 R136: PREAD reads the input register afresh, refreshes all 8 bits of its cache, and answers 0x01 where the pin's
bit of the byte just read is set, else 0x00. -/
def Obligations.PreadTestsAFreshInputByte : Prop :=
  ∀ (i : PinIdx) (s : State), s.busSilent = false →
    ReadsRegister (.pread i) .inp (fun b => { s.block.cache with inp := b })
      (fun b => if b.getLsbD i.val then 0x01 else 0x00) s

/-- 41 R137: PWATCH writes the configuration with the pin's bit set, and only then registers the handler; on a bus failure
neither `x[CFG]` nor the watcher table changes. -/
def Obligations.PwatchForcesInputThenRegisters : Prop :=
  ∀ (i : PinIdx) (e : EdgeKind) (h : Tok) (s : State), s.busSilent = false →
    ∃ n : Byte, (∀ k < 8, n.getLsbD k = if k = i.val then true else (s.x .cfg).getLsbD k) ∧
    (∀ v, s.busReply = .ok v → ∃ t, exec (.pwatch i e h) s = .next t ∧
      t.block = { s.block with cache := { s.block.cache with cfg := n }, watch := t.block.watch } ∧
      (∀ j : PinIdx, t.block.watch.get j = if j = i then some h else s.block.watch.get j) ∧
      Grew s t [.write s.block.address .cfg n .ok] [] [] [⟨s.turn, responseWord .ok 0x00, none⟩] ∧ Used s t 1 0 0) ∧
    (∀ y, s.busReply = .err y → ∃ t, exec (.pwatch i e h) s = .next t ∧ t.block = s.block ∧
      Grew s t [.write s.block.address .cfg n (.err y)] [] [] [⟨s.turn, responseWord .errBus y, none⟩] ∧ Used s t 1 0 0)

/-- 41 R139: "two PWATCH commands that differ only in `e` leave identical states". -/
def Obligations.EdgeKindChangesNothing : Prop :=
  ∀ (i : PinIdx) (e e' : EdgeKind) (h : Tok) (s : State), exec (.pwatch i e h) s = exec (.pwatch i e' h) s

/-- 30 R95, 41 R137: where the bus write succeeds, PWATCH leaves the record that PDIR to `in` followed by REG leaves. -/
def Obligations.PwatchIsDirectionThenRegister : Prop :=
  ∀ (i : PinIdx) (e : EdgeKind) (h : Tok) (v : Byte) (s : State), s.busSilent = false → s.busReply = .ok v →
    ∃ t u w, exec (.pwatch i e h) s = .next t ∧ exec (.pdir i .input) s = .next u ∧ exec (.reg i h) u = .next w ∧
      t.block = w.block ∧ t.hist.bus = w.hist.bus

/-- 41 R138, 42 R161: PSTOP and UNREG remove the pin's entry, succeed whether or not there was one, make no bus
transaction and change nothing else; each has exactly the other's effect. In live mode the dispatches in progress note the
removal (42 R164; the model's own record, notes/assumptions/9.md). -/
def Obligations.StopAndUnregisterRemoveOneEntry : Prop :=
  ∀ (i : PinIdx) (s : State), exec (.pstop i) s = exec (.unreg i) s ∧
    ∃ t, exec (.unreg i) s = .next t ∧
      (∀ j : PinIdx, t.block.watch.get j = if j = i then none else s.block.watch.get j) ∧
      (s.mode = .snapshot → t.block = { s.block with watch := t.block.watch }) ∧
      (s.mode = .live → t.block = { s.block with
        watch := t.block.watch, svc := s.block.svc.noteRemoved i,
        dispS := s.block.dispS.map (Fanout.noteRemoved i), dispA := s.block.dispA.map (Fanout.noteRemoved i) }) ∧
      Grew s t [] [] [] [⟨s.turn, responseWord .ok 0x00, none⟩] ∧ Used s t 0 0 0

/-- 41 R141: PPULL ends ERR_UNSUPPORTED for every pin and pull kind: no transaction, no event, no change. -/
def Obligations.PpullIsAlwaysUnsupported : Prop :=
  ∀ (i : PinIdx) (k : Pull) (s : State), ∃ t, exec (.ppull i k) s = .next t ∧ t.block = s.block ∧
    Grew s t [] [] [] [⟨s.turn, responseWord .errUnsupported 0x00, none⟩] ∧ Used s t 0 0 0

/-- PPULSE's issuing step is the first poll of its drain phase (41 R140) on the issuing port; that no step comes before
that poll is the model's reading (notes/assumptions/27.md). The input byte read goes to `x[IN]`; the phase becomes
waitStart if the pin's bit is not the level timed, else stays drain; a failed poll ends the command with ERR_BUS and the
issuing port idle. -/
def Obligations.PpulseStartsByDraining : Prop :=
  ∀ (i : PinIdx) (l : Level) (s : State), s.busSilent = false →
    (∀ b, s.busReply = .ok b → ∃ t, exec (.ppulse i l) s = .next t ∧
      t.block.cache = { s.block.cache with inp := b } ∧
      t.block.pulse s.turn = (if b.getLsbD i.val = decide (l = .high) then .drain i l else .waitStart i l) ∧
      (∀ q, q ≠ s.turn → t.block.pulse q = s.block.pulse q) ∧
      t.block = { s.block with
        cache := t.block.cache, pulseS := t.block.pulseS, pulseA := t.block.pulseA } ∧
      Grew s t [.read s.block.address .inp (.ok b)] [] [] [] ∧ Used s t 1 0 0) ∧
    (∀ e, s.busReply = .err e → ∃ t, exec (.ppulse i l) s = .next t ∧ t.block.pulse s.turn = .idle ∧
      (∀ q, q ≠ s.turn → t.block.pulse q = s.block.pulse q) ∧
      t.block = { s.block with pulseS := t.block.pulseS, pulseA := t.block.pulseA } ∧
      Grew s t [.read s.block.address .inp (.err e)] [] [] [⟨s.turn, responseWord .errBus e, none⟩] ∧ Used s t 1 0 0)

/-- 41 R140: a PPULSE whose input bytes go through the three phases, each phase with any number of polls, completes after
exactly those polls: one read of the input register each, OK with `dur = t1 - t0`, `x[IN]` the last byte, nothing else.
The number of steps (the issuing step is a poll) and the readings (natural numbers, taken in the polls' own steps) are the
model's (notes/assumptions/27.md, 11.md). The run has no move of the other port between the polls. -/
def Obligations.PpulseCompletesAfterItsPolls : Prop :=
  ∀ (p : Port) (i : PinIdx) (l : Level) (s : State) (drain wait timing : List Byte) (x y z : Byte) (t0 t1 : Nat)
    (ms : List Move) (as : List BusAnswer) (cs : List Nat),
    s.mayCommand p = true →
    (∀ b ∈ drain, pinLevel b i = l) → pinLevel x i ≠ l → (∀ b ∈ wait, pinLevel b i ≠ l) → pinLevel y i = l →
    (∀ b ∈ timing, pinLevel b i = l) → pinLevel z i ≠ l → t0 ≤ t1 →
    s.env.moves = .command p (encode (.ppulse i l)) ::
      (List.replicate (drain.length + wait.length + timing.length + 2) (.advance p 0) ++ ms) →
    s.env.bus = (drain ++ [x] ++ wait ++ [y] ++ timing ++ [z]).map (fun b => .reply (.ok b)) ++ as →
    s.env.clock = t0 :: t1 :: cs →
    ∃ t, core.run (drain.length + wait.length + timing.length + 3) s = .next t ∧
      t.block = { s.block with cache := { s.block.cache with inp := z } } ∧ t.env.moves = ms ∧
      Grew s t ((drain ++ [x] ++ wait ++ [y] ++ timing ++ [z]).map fun b => .read s.block.address .inp (.ok b)) [] []
        [⟨p, responseWord .ok 0x00, some (t1 - t0)⟩]

/-- 70 R252, 41 R140: while the pin does not take the awaited level a PPULSE only polls, however long: its phase does not
change, nothing responds, and each poll is one read of the input register. -/
def Obligations.PpulseHangsWhileThePinDoesNotMove : Prop :=
  ∀ (p : Port) (i : PinIdx) (l : Level) (s : State) (bytes : List Byte) (as : List BusAnswer) (ms : List Move),
    (s.block.pulse p = .drain i l ∧ (∀ b ∈ bytes, pinLevel b i = l) ∨
     s.block.pulse p = .waitStart i l ∧ (∀ b ∈ bytes, pinLevel b i ≠ l) ∨
     (∃ t0, s.block.pulse p = .timing i l t0) ∧ (∀ b ∈ bytes, pinLevel b i = l)) →
    s.env.moves = List.replicate bytes.length (.advance p 0) ++ ms →
    s.env.bus = bytes.map (fun b => .reply (.ok b)) ++ as →
    ∃ t, core.run bytes.length s = .next t ∧ t.block.pulse p = s.block.pulse p ∧
      t.block = { s.block with cache := { s.block.cache with inp := (bytes.getLast?).getD s.block.cache.inp } } ∧
      Grew s t (bytes.map fun b => .read s.block.address .inp (.ok b)) [] [] []

/-- 41 R140, 60 R206: in every phase the first poll whose bus read fails ends the PPULSE with ERR_BUS on its port and no
duration; `x[IN]` keeps the byte of the last successful poll, and nothing else changes. -/
def Obligations.FailedPollEndsThePulse : Prop :=
  ∀ (p : Port) (k : Nat) (e : Byte) (s : State) (ms : List Move), s.env.moves = .advance p k :: ms →
    s.block.pulse p ≠ .idle → s.busSilent = false → s.busReply = .err e →
    ∃ t, step s = .next t ∧ t.block.pulse p = .idle ∧ (∀ q, q ≠ p → t.block.pulse q = s.block.pulse q) ∧
      t.block = { s.block with pulseS := t.block.pulseS, pulseA := t.block.pulseA } ∧
      Grew s t [.read s.block.address .inp (.err e)] [] [] [⟨p, responseWord .errBus e, none⟩] ∧
      Used (s.withMoves ms) t 1 0 0

/-- 41 R140, D25: a PPULSE holds only the port that issued it. -/
def Obligations.PpulseHoldsOnlyItsPort : Prop :=
  ∀ (p q : Port) (v : Pulse) (s : State),
    (q ≠ p → (s.setPulse p v).mayCommand q = s.mayCommand q ∧ (s.setPulse p v).mayReturn q = s.mayReturn q) ∧
    (v ≠ .idle → (s.setPulse p v).mayCommand p = false ∧ (s.setPulse p v).mayReturn p = false)

/-! ### The Interrupt Dispatcher (42_interrupt_dispatcher.md) -/

/-- 42 R160: REG inserts or overwrites the pin's entry and changes nothing else; it makes no bus transaction. -/
def Obligations.RegisterOverwritesOneEntry : Prop :=
  ∀ (i : PinIdx) (h : Tok) (s : State), ∃ t, exec (.reg i h) s = .next t ∧
    (∀ j : PinIdx, t.block.watch.get j = if j = i then some h else s.block.watch.get j) ∧
    t.block = { s.block with watch := t.block.watch } ∧
    Grew s t [] [] [] [⟨s.turn, responseWord .ok 0x00, none⟩] ∧ Used s t 0 0 0

/-- 42 R162: DISP's atomic step takes the set of registered pins whose bit is set in the byte, each once; with none (in
snapshot mode) it responds OK, else a dispatch of that set is in progress on its port. Nothing else changes. That the
snapshot, and the response where nothing is selected, come in the issuing step is the model's reading
(notes/assumptions/27.md), and that a live dispatch is kept even where nothing is selected is the model's choice
(notes/assumptions/9.md). -/
def Obligations.DispTakesTheSelectedEntries : Prop :=
  ∀ (b : Byte) (s : State), ∃ (t : State) (S : List (PinIdx × Tok)), exec (.disp b) s = .next t ∧ S.Nodup ∧
    (∀ i h, (i, h) ∈ S ↔ s.block.watch.get i = some h ∧ b.getLsbD i.val = true) ∧
    (∀ q, q ≠ s.turn → t.block.disp q = s.block.disp q) ∧
    t.block = { s.block with dispS := t.block.dispS, dispA := t.block.dispA } ∧ Used s t 0 0 0 ∧
    (s.mode = .snapshot → S = [] → t.block.disp s.turn = s.block.disp s.turn ∧
      Grew s t [] [] [] [⟨s.turn, responseWord .ok 0x00, none⟩]) ∧
    (s.mode = .live ∨ S ≠ [] → t.block.disp s.turn = ⟨b, S, none, [], []⟩ :: s.block.disp s.turn ∧ Grew s t [] [] [] [])

/-- 42 R162, R163: in snapshot mode a DISP whose handlers do nothing and return invokes the handler of every registered
pin whose bit is set exactly once and no other, whatever the choices of order, then responds OK; the record is as before.
The number of steps is the model's (notes/assumptions/27.md for the snapshot, 6.md for the end with the last return). The
run has no command of a handler and no move of the other port. -/
def Obligations.DispInvokesEverySelectedHandlerOnce : Prop :=
  ∀ (p : Port) (b : Byte) (s : State) (ks : List Nat) (ms : List Move),
    s.mode = .snapshot → s.mayCommand p = true → ks.length = (selectPairs s.block.watch b).length →
    s.env.moves = .command p (encode (.disp b)) :: (ks.flatMap (fun k => [.advance p k, .ret p]) ++ ms) →
    ∃ (t : State) (qs : List (PinIdx × Tok)), core.run (2 * ks.length + 1) s = .next t ∧ qs.Nodup ∧
      (∀ i h, (i, h) ∈ qs ↔ s.block.watch.get i = some h ∧ b.getLsbD i.val = true) ∧
      t.block = s.block ∧ t.env.moves = ms ∧
      Grew s t [] [] (qs.map fun q => .pin q.2 q.1) [⟨p, responseWord .ok 0x00, none⟩]

/-- 42 R165, in snapshot mode: every order of the selected handlers is a run of DISP: for every permutation of the
selected pairs there are choices under which the DISP, its handlers doing nothing and returning, emits their `PIN` events
in that order, responds OK and leaves the record as it was. The number of steps is the model's (notes/assumptions/27.md,
6.md). -/
def Obligations.EveryFanoutOrderCanHappen : Prop :=
  ∀ (p : Port) (b : Byte) (s : State) (qs : List (PinIdx × Tok)) (ms : List Move),
    s.mode = .snapshot → s.mayCommand p = true → qs.Perm (selectPairs s.block.watch b) →
    ∃ (ks : List Nat) (t : State), ks.length = qs.length ∧
      core.run (2 * ks.length + 1)
        (s.withMoves (.command p (encode (.disp b)) :: (ks.flatMap (fun k => [.advance p k, .ret p]) ++ ms))) = .next t ∧
      t.block = s.block ∧ t.env.moves = ms ∧
      Grew s t [] [] (qs.map fun q => .pin q.2 q.1) [⟨p, responseWord .ok 0x00, none⟩]

/-- 42 R163: in snapshot mode nothing a command does to the watcher table changes a dispatch in progress. -/
def Obligations.TableChangesLeaveADispatchAlone : Prop :=
  ∀ (i : PinIdx) (e : EdgeKind) (h : Tok) (s t : State), s.mode = .snapshot →
    exec (.reg i h) s = .next t ∨ exec (.unreg i) s = .next t ∨ exec (.pstop i) s = .next t ∨
      exec (.pwatch i e h) s = .next t →
    t.block.svc = s.block.svc ∧ t.block.dispS = s.block.dispS ∧ t.block.dispA = s.block.dispA

/-- 42 R164, in the model's own record of a live dispatch (notes/assumptions/9.md): in live mode a dispatch may invoke an
owed entry with its old token, may invoke an entry not yet invoked with the token it has now, may end when nothing is owed
(an entry removed meanwhile is not), and invokes no entry twice. -/
def Obligations.LiveDispatchAllowsOldAndNew : Prop :=
  ∀ (w : Vector (Option Tok) 8) (f : Fanout), f.Ok →
    (∀ q ∈ f.pending, ∃ k, f.pick .live w k = some q) ∧
    (∀ (i : PinIdx) (h : Tok), w.get i = some h → f.byte.getLsbD i.val = true → i ∉ f.invoked →
      ∃ k, f.pick .live w k = some (i, h)) ∧
    ((∀ q ∈ f.pending, q.1 ∈ f.missable) ↔ ∃ k, f.pick .live w k = none) ∧
    (∀ k q, f.pick .live w k = some q → q.1 ∉ f.invoked ∧ f.byte.getLsbD q.1.val = true)

/-! ### The interrupt (60_exceptions.md) -/

/-- 60 R210, the atomic step: an edge event served while a pin is bound reads the input register, refreshes `x[IN]`, masks
the byte with the cached configuration and latches the top-level handler; nothing is saved and nothing
else changes. That `TOP` is not yet emitted in this step is the model's reading (notes/assumptions/5.md). -/
def Obligations.EdgeReadsAndMasks : Prop :=
  ∀ (b : Byte) (s : State) (ms : List Move), s.env.moves = .edge :: ms → s.block.svc = .idle →
    s.block.intBound = true → s.busSilent = false → s.busReply = .ok b →
    ∃ t, step s = .next t ∧
      t.block = { s.block with
        cache := { s.block.cache with inp := b },
        svc := .top s.block.intHandler (b &&& s.block.cache.cfg) false } ∧
      Grew s t [.read s.block.address .inp (.ok b)] [] [] [] ∧ Used (s.withMoves ms) t 1 0 0

/-- 60 R210 (snapshot mode): a served edge event whose handlers do nothing and return emits `TOP` with the latched handler
and the masked byte, then invokes the handler of every registered pin whose bit is set in the masked byte exactly once,
whatever the order, and ends; of the record only `x[IN]` has changed. The number of steps is the model's
(notes/assumptions/5.md for the emission of `TOP`, 6.md for the returns). The run has no command of a handler and no move
of port S. -/
def Obligations.ServiceInvokesTopThenEveryWatchedPin : Prop :=
  ∀ (b : Byte) (k0 : Nat) (s : State) (ks : List Nat) (ms : List Move) (as : List BusAnswer),
    s.mode = .snapshot → s.block.svc = .idle → s.block.dispA = [] → s.block.pulseA = .idle → s.block.intBound = true →
    s.env.bus = .reply (.ok b) :: as → ks.length = (selectPairs s.block.watch (b &&& s.block.cache.cfg)).length →
    s.env.moves = .edge :: .advance .portA k0 :: .ret .portA ::
      (ks.flatMap (fun k => [.advance .portA k, .ret .portA]) ++ ms) →
    ∃ (t : State) (qs : List (PinIdx × Tok)), core.run (2 * ks.length + 3) s = .next t ∧ qs.Nodup ∧
      (∀ i h, (i, h) ∈ qs ↔ s.block.watch.get i = some h ∧ (b &&& s.block.cache.cfg).getLsbD i.val = true) ∧
      t.block = { s.block with cache := { s.block.cache with inp := b } } ∧ t.env.moves = ms ∧
      Grew s t [.read s.block.address .inp (.ok b)] []
        (.top s.block.intHandler (b &&& s.block.cache.cfg) :: qs.map fun q => .pin q.2 q.1) []

/-- 60 R211: when the input read fails the flag is set, `x[IN]` keeps its value, `ASYNC_ERR` with the bus's payload is
emitted, no handler is invoked, and the sequence ends; the read is not retried and nothing else changes.
That the flag and the report are steps of their own is the model's reading (notes/assumptions/17.md, 5.md). -/
def Obligations.FailedInterruptReadAborts : Prop :=
  ∀ (e : Byte) (j k : Nat) (s : State) (ms : List Move),
    s.env.moves = .edge :: .advance .portA j :: .advance .portA k :: ms →
    s.block.svc = .idle → s.block.dispA = [] → s.block.pulseA = .idle → s.block.intBound = true →
    s.busSilent = false → s.busReply = .err e →
    ∃ t, core.run 3 s = .next t ∧ t.block = { s.block with asyncFault := true } ∧
      Grew s t [.read s.block.address .inp (.err e)] [] [.asyncErr e] [] ∧ Used (s.withMoves ms) t 1 0 0

/-- 60 R210, 30 R93: an edge event whose first step finds no pin bound is discarded: nothing read, nothing emitted. -/
def Obligations.EdgeWhileUnboundIsDiscarded : Prop :=
  ∀ (s : State) (ms : List Move), s.env.moves = .edge :: ms → s.block.svc = .idle → s.block.intBound = false →
    step s = .next (s.withMoves ms)

/-- The moves that the spec assumes never (70 R264) stop the machine, each under its own name: the stops are the model's
choice (notes/assumptions/13.md, 14.md, 15.md). -/
def Obligations.AssumedNeverMovesStop : Prop :=
  ∀ (s : State) (ms : List Move),
    (∀ p w, s.env.moves = .command p w :: ms → s.block.pulse p ≠ .idle →
      step s = .fault (.commandBeforeResponse p)) ∧
    (∀ p w f fs, s.env.moves = .command p w :: ms → s.block.disp p = f :: fs → f.running = none →
      step s = .fault (.commandBeforeResponse p)) ∧
    (∀ w, s.env.moves = .command .portA w :: ms → s.block.pulseA = .idle → s.block.dispA = [] →
      s.block.svc.handlerRunning = false → step s = .fault .portAIdle) ∧
    (∀ p, s.env.moves = .ret p :: ms → s.handlerRunning p = false → step s = .fault (.returnWithoutHandler p)) ∧
    (s.env.moves = .edge :: ms → s.block.svc ≠ .idle → step s = .fault .edgeDuringService) ∧
    (∀ p k i l t0 b c cs, s.env.moves = .advance p k :: ms → s.block.pulse p = .timing i l t0 → s.busSilent = false →
      s.busReply = .ok b → pinLevel b i ≠ l → s.env.clock = c :: cs → c < t0 → step s = .fault .timeBackwards)

/-- A command whose bus or external-pin call is never answered does not complete (70 R263): the model's choice is to stop
with a fault (notes/assumptions/12.md). -/
def Obligations.UnansweredCallsHang : Prop :=
  ∀ s : State,
    (s.busSilent = true → ∀ i : Instr, TransactionsOf s.block.address i [] ∨ exec i s = .fault .busSilent) ∧
    (s.xpinSilent = true → (∀ xp h, s.block.intBound = false → exec (.setint xp h) s = .fault .xpinSilent) ∧
      (s.block.intBound = true → exec .close s = .fault .xpinSilent)) ∧
    (∀ xp h, s.block.intBound = false → s.xpinSilent = false → s.xpinReply = .ok → s.tookXPin.xpinSilent = true →
      exec (.setint xp h) s = .fault .xpinSilent)

/-! ### Reset (10_state.md, 70_reset_and_hazards.md) -/

/-- 10 R36, 70 R240, R241: after construction with any address and any cache reset bytes the address is the strap, the
cache holds those bytes, no pin is bound, no handler is registered, `asyncFault` is 0, the sequencing state is idle and
the histories are empty (no bus transaction, no external-pin call); this spec takes 0x00 for each cache register. -/
def Obligations.ResetLeavesTheStatedValues : Prop :=
  (∀ (a : BusAddr) (c : Reg → Byte) (m : DispatchMode),
    (State.resetAt a c m).block.address = a ∧ (∀ r, (State.resetAt a c m).x r = c r) ∧
    (State.resetAt a c m).block.intBound = false ∧
    (∀ i : PinIdx, (State.resetAt a c m).block.watch.get i = none) ∧
    (State.resetAt a c m).block.asyncFault = false ∧ (State.resetAt a c m).quiescent ∧
    (State.resetAt a c m).hist = ⟨[], [], [], []⟩) ∧
  (∀ r, State.reset.x r = 0x00) ∧ State.reset.mode = .snapshot

/-- The invariants below hold at reset. -/
def Obligations.InvariantsHoldAtReset : Prop :=
  ∀ (a : BusAddr) (c : Reg → Byte) (m : DispatchMode),
    (State.resetAt a c m).CacheTracksBus c ∧ (State.resetAt a c m).BusDisciplined ∧ (State.resetAt a c m).Sequenced

/-! ### Invariants of every step -/

/-- 10 R24: "`x[r]` equals the byte of the most recent bus transaction on register `r` that this block performed and that
succeeded, whether a read or a write; or ... its reset value": it holds at reset and every step keeps it, for any reset
bytes. -/
def Obligations.EveryStepKeepsTheCacheInvariant : Prop :=
  (∀ (a : BusAddr) (c : Reg → Byte) (m : DispatchMode), (State.resetAt a c m).CacheTracksBus c) ∧
  ∀ (c : Reg → Byte) (s t : State), s.CacheTracksBus c → step s = .next t → t.CacheTracksBus c

/-- 10 R25 (and, of R34, that the input register is never written): the address is the strap given at construction, every
step keeps it, and every transaction carries it. -/
def Obligations.EveryStepKeepsTheBusDiscipline : Prop :=
  (∀ (a : BusAddr) (c : Reg → Byte) (m : DispatchMode),
    (State.resetAt a c m).block.address = a ∧ (State.resetAt a c m).BusDisciplined) ∧
  ∀ s t : State, s.BusDisciplined → step s = .next t → t.BusDisciplined ∧ t.block.address = s.block.address

/-- The model's own invariant of its sequencing state (notes/assumptions/10.md), read from 42 R162, R166, 60 R214, R220:
every step keeps the nesting of the sequences in progress: port A is busy only under a running handler of the service
sequence, an enclosing dispatch waits for its handler, and no dispatch owes an entry it has invoked. -/
def Obligations.EveryStepKeepsTheSequencing : Prop :=
  ∀ s t : State, s.Sequenced → step s = .next t → t.Sequenced

/-- 10 R31, 60 R211, 70 R243: `asyncFault` is never cleared, and only a failed input read of a served edge event sets it.
That the flag is set in a step of its own after the failed read, with `svc` in the phase failed between the two, is the
model's reading (notes/assumptions/17.md). -/
def Obligations.AsyncFaultIsStickyAndHasOneCause : Prop :=
  ∀ s t : State, step s = .next t →
    (s.block.asyncFault = true → t.block.asyncFault = true) ∧
    (s.block.asyncFault = false → t.block.asyncFault = true → ∃ e, s.block.svc = .failed e) ∧
    (∀ e, t.block.svc = .failed e → s.block.svc = .failed e ∨
      s.env.moves.head? = some .edge ∧ s.block.svc = .idle ∧ s.block.intBound = true ∧ s.busReply = .err e)

/-- 10 R26: a step that changes the binding is a SETINT or a CLOSE that ends OK: `intBound` is set, and the bound tokens
change, only by a SETINT that ends OK, which found no pin bound and leaves its own tokens; it is cleared only by a CLOSE
that ends OK. No other command, no illegal word, no edge event, no step of a sequence and no handler's return changes it.
-/
def Obligations.OnlySetintAndCloseChangeTheBinding : Prop :=
  ∀ s t : State, step s = .next t →
    (t.block.intBound ≠ s.block.intBound ∨ t.block.intPin ≠ s.block.intPin ∨ t.block.intHandler ≠ s.block.intHandler) →
    ∃ p w ms, s.env.moves = .command p w :: ms ∧
      t.hist.responses = s.hist.responses ++ [⟨p, responseWord .ok 0x00, none⟩] ∧
      ((∃ xp h, decode w = some (.setint xp h) ∧ s.block.intBound = false ∧
          t.block.intBound = true ∧ t.block.intPin = xp ∧ t.block.intHandler = h) ∨
        (decode w = some .close ∧ s.block.intBound = true ∧
          t.block.intBound = false ∧ t.block.intPin = s.block.intPin ∧ t.block.intHandler = s.block.intHandler))

/-- 20 R60: a command's first step makes exactly the transactions the table gives it, in order, and no more. -/
def Obligations.CommandsMakeTheirTransactions : Prop :=
  ∀ (i : Instr) (s t : State), exec i s = .next t →
    ∃ l, t.hist.bus = s.hist.bus ++ l ∧ TransactionsOf s.block.address i l

/-- 60 R201: which command can end with which error: a response to a command is OK or one of its errors, and never
ERR_ILLEGAL or ERR_FATAL_CALLBACK; SETINT ends in a conflict exactly when a pin is bound at entry; PPULL never ends OK. -/
def Obligations.CommandsEndWithTheirErrors : Prop :=
  ∀ (i : Instr) (s t : State), exec i s = .next t →
    (∃ l, t.hist.responses = s.hist.responses ++ l ∧ l.length ≤ 1 ∧
      ∀ r ∈ l, r.port = s.turn ∧ ∃ st v, r.word = responseWord st v ∧ (st = .ok ∨ st ∈ errorsOf i)) ∧
    (∀ xp h, i = .setint xp h →
      (t.hist.responses = s.hist.responses ++ [⟨s.turn, responseWord .errConflict 0x00, none⟩] ↔
        s.block.intBound = true)) ∧
    (∀ q k, i = .ppull q k →
      t.hist.responses = s.hist.responses ++ [⟨s.turn, responseWord .errUnsupported 0x00, none⟩])

/-- 60 R202: errors are precise: a command whose response is not OK has changed nothing in the record. -/
def Obligations.FailedCommandsLeaveTheRecord : Prop :=
  ∀ (i : Instr) (s t : State) (st : Status) (v : Byte) (d : Option Nat), s.block.pulse s.turn = .idle →
    exec i s = .next t → t.hist.responses = s.hist.responses ++ [⟨s.turn, responseWord st v, d⟩] → st ≠ .ok →
    t.block = s.block

/-! ### What nothing depends on -/

/-- 10 R23: "nothing: no command's result depends on the cached input byte": two states that differ only in `x[IN]` step
to outcomes that differ at most in `x[IN]`. -/
def Obligations.NothingDependsOnTheCachedInput : Prop :=
  ∀ (b : Byte) (s : State), outMap (State.setX .inp 0x00) (step (s.setX .inp b)) = outMap (State.setX .inp 0x00) (step s)

/-- 10 R33: "No rule of the block reads either history": from any other histories the step has the same outcome, the same
next state but for the histories, and appends the same transactions, events, external-pin calls and responses to them. -/
def Obligations.NothingDependsOnTheHistories : Prop :=
  ∀ (h : Hist) (s : State), ∃ d : Hist,
    step (s.withHist h) = outMap (State.withHist (h.append d)) (step s) ∧
    ∀ t, step s = .next t → t.hist = s.hist.append d

/-- 10 R31: "No command's behaviour depends on it." -/
def Obligations.NothingDependsOnAsyncFault : Prop :=
  ∀ (b : Bool) (s : State),
    outMap (State.withAsyncFault false) (step (s.withAsyncFault b)) = outMap (State.withAsyncFault false) (step s)

/-- 10 R26: "When `intBound = 0` the values of `intPin` and `intHandler` are meaningless and no rule reads them." -/
def Obligations.UnboundTokensAreMeaningless : Prop :=
  ∀ (xp h : Tok) (s : State), s.block.intBound = false →
    outMap State.forgetUnbound (step (s.withTokens xp h)) = outMap State.forgetUnbound (step s)

/-! ### Ordering and use (20_memory.md, 70_reset_and_hazards.md, 95_test_vectors.md) -/

/-- 20 R62: two PWRITEs from any two ports on different pins never lose one another's bit, in either order. -/
def Obligations.PinWritesFromTwoPortsLoseNoBit : Prop :=
  ∀ (i j : PinIdx) (l m : Level) (p q : Port) (v w : Byte) (s t u : State), i ≠ j →
    s.busReply = .ok v → exec (.pwrite i l) (s.onPort p) = .next t →
    t.busReply = .ok w → exec (.pwrite j m) (t.onPort q) = .next u →
    ∀ k < 8, (u.x .out).getLsbD k =
      if k = i.val then decide (l = .high) else if k = j.val then decide (m = .high) else (s.x .out).getLsbD k

/-- 95 T3: on a bus that echoes the byte just written, PDIR followed by RDCFG answers a byte whose bit `i` is the
direction and whose other bits are as before. -/
def Obligations.DirectionReadsBack : Prop :=
  ∀ (i : PinIdx) (d : Direction) (v : Byte) (s t u : State), s.busReply = .ok v →
    exec (.pdir i d) s = .next t → t.busReply = .ok (t.x .cfg) → exec .rdcfg t = .next u →
    ∃ n : Byte, (∀ k < 8, n.getLsbD k = if k = i.val then decide (d = .input) else (s.x .cfg).getLsbD k) ∧
      u.hist.responses = t.hist.responses ++ [⟨t.turn, responseWord .ok n, none⟩] ∧ u.x .cfg = n

/-- 20 R56, 10 R24: after every step from a state with the cache invariant, if the bus history is one an echo bus gives,
each cache register on which a transaction has succeeded equals the echo bus's byte. -/
def Obligations.CacheAgreesWithAnEchoBus : Prop :=
  ∀ (c : Reg → Byte) (chip chip' : Cache) (s t : State), s.CacheTracksBus c → step s = .next t →
    echoAfter chip t.hist.bus = some chip' → ∀ r, lastByte r t.hist.bus ≠ none → t.x r = chip'.get r

/-- A run that is over (70 R263) stays as it is: that the machine rests by stepping to itself is the model's choice
(notes/assumptions/18.md). -/
def Obligations.OverIsAtRest : Prop := ∀ s : State, s.over → step s = .next s

/-! ### A step runs the decoded command -/

/-- 30 R85, 20 R58: when the next move is a word that decodes to `i` on a port that may issue a command, the step is
`exec` of `i` on that port, with the move used up. -/
def Obligations.StepRunsTheDecodedCommand : Prop :=
  ∀ (p : Port) (w : CmdWord) (i : Instr) (s : State) (ms : List Move), s.env.moves = .command p w :: ms →
    s.mayCommand p = true → decode w = some i → step s = exec i ((s.withMoves ms).onPort p)

/-- The host's placing of a word, the model's own (notes/assumptions/8.md): the very next step runs the command the
table's word decodes to, on port S with nothing in progress there. -/
def Obligations.PlacedWordRunsNext : Prop :=
  ∀ (i : Instr) (s : State),
    decodeTableWord 24 (encode i).toNat = some i ∧
    step (s.withFetchWord 24 (encode i).toNat) =
      exec i ({ s with block := { s.block with pulseS := .idle, dispS := [] } }.onPort .portS)
end

