-- ==== Sys2Proof/Laws/State.lean ====
section
/-! SUPPORT. One lemma per field per update of the state, each by unfolding the update once, so that later proofs never
unfold a record update. -/

namespace Sys2Proof.Machine

variable (s : State)

/-! ### `State.bindInt` -/

@[simp] theorem bindInt_mode (xp h : Tok) : (s.bindInt xp h).mode = s.mode := rfl
@[simp] theorem bindInt_turn (xp h : Tok) : (s.bindInt xp h).turn = s.turn := rfl
@[simp] theorem bindInt_env (xp h : Tok) : (s.bindInt xp h).env = s.env := rfl
@[simp] theorem bindInt_hist (xp h : Tok) : (s.bindInt xp h).hist = s.hist := rfl
@[simp] theorem bindInt_address (xp h : Tok) : (s.bindInt xp h).block.address = s.block.address := rfl
@[simp] theorem bindInt_cache (xp h : Tok) : (s.bindInt xp h).block.cache = s.block.cache := rfl
@[simp] theorem bindInt_intBound (xp h : Tok) : (s.bindInt xp h).block.intBound = true := rfl
@[simp] theorem bindInt_intPin (xp h : Tok) : (s.bindInt xp h).block.intPin = xp := rfl
@[simp] theorem bindInt_intHandler (xp h : Tok) : (s.bindInt xp h).block.intHandler = h := rfl
@[simp] theorem bindInt_watch (xp h : Tok) : (s.bindInt xp h).block.watch = s.block.watch := rfl
@[simp] theorem bindInt_asyncFault (xp h : Tok) : (s.bindInt xp h).block.asyncFault = s.block.asyncFault := rfl
@[simp] theorem bindInt_pulseS (xp h : Tok) : (s.bindInt xp h).block.pulseS = s.block.pulseS := rfl
@[simp] theorem bindInt_pulseA (xp h : Tok) : (s.bindInt xp h).block.pulseA = s.block.pulseA := rfl
@[simp] theorem bindInt_svc (xp h : Tok) : (s.bindInt xp h).block.svc = s.block.svc := rfl
@[simp] theorem bindInt_dispS (xp h : Tok) : (s.bindInt xp h).block.dispS = s.block.dispS := rfl
@[simp] theorem bindInt_dispA (xp h : Tok) : (s.bindInt xp h).block.dispA = s.block.dispA := rfl

/-! ### `State.unbindInt` -/

@[simp] theorem unbindInt_mode : s.unbindInt.mode = s.mode := rfl
@[simp] theorem unbindInt_turn : s.unbindInt.turn = s.turn := rfl
@[simp] theorem unbindInt_env : s.unbindInt.env = s.env := rfl
@[simp] theorem unbindInt_hist : s.unbindInt.hist = s.hist := rfl
@[simp] theorem unbindInt_address : s.unbindInt.block.address = s.block.address := rfl
@[simp] theorem unbindInt_cache : s.unbindInt.block.cache = s.block.cache := rfl
@[simp] theorem unbindInt_intBound : s.unbindInt.block.intBound = false := rfl
@[simp] theorem unbindInt_intPin : s.unbindInt.block.intPin = s.block.intPin := rfl
@[simp] theorem unbindInt_intHandler : s.unbindInt.block.intHandler = s.block.intHandler := rfl
@[simp] theorem unbindInt_watch : s.unbindInt.block.watch = s.block.watch := rfl
@[simp] theorem unbindInt_asyncFault : s.unbindInt.block.asyncFault = s.block.asyncFault := rfl
@[simp] theorem unbindInt_pulseS : s.unbindInt.block.pulseS = s.block.pulseS := rfl
@[simp] theorem unbindInt_pulseA : s.unbindInt.block.pulseA = s.block.pulseA := rfl
@[simp] theorem unbindInt_svc : s.unbindInt.block.svc = s.block.svc := rfl
@[simp] theorem unbindInt_dispS : s.unbindInt.block.dispS = s.block.dispS := rfl
@[simp] theorem unbindInt_dispA : s.unbindInt.block.dispA = s.block.dispA := rfl

/-! ### `State.setAsyncFault` -/

@[simp] theorem setAsyncFault_mode : s.setAsyncFault.mode = s.mode := rfl
@[simp] theorem setAsyncFault_turn : s.setAsyncFault.turn = s.turn := rfl
@[simp] theorem setAsyncFault_env : s.setAsyncFault.env = s.env := rfl
@[simp] theorem setAsyncFault_hist : s.setAsyncFault.hist = s.hist := rfl
@[simp] theorem setAsyncFault_address : s.setAsyncFault.block.address = s.block.address := rfl
@[simp] theorem setAsyncFault_cache : s.setAsyncFault.block.cache = s.block.cache := rfl
@[simp] theorem setAsyncFault_intBound : s.setAsyncFault.block.intBound = s.block.intBound := rfl
@[simp] theorem setAsyncFault_intPin : s.setAsyncFault.block.intPin = s.block.intPin := rfl
@[simp] theorem setAsyncFault_intHandler : s.setAsyncFault.block.intHandler = s.block.intHandler := rfl
@[simp] theorem setAsyncFault_watch : s.setAsyncFault.block.watch = s.block.watch := rfl
@[simp] theorem setAsyncFault_asyncFault : s.setAsyncFault.block.asyncFault = true := rfl
@[simp] theorem setAsyncFault_pulseS : s.setAsyncFault.block.pulseS = s.block.pulseS := rfl
@[simp] theorem setAsyncFault_pulseA : s.setAsyncFault.block.pulseA = s.block.pulseA := rfl
@[simp] theorem setAsyncFault_svc : s.setAsyncFault.block.svc = s.block.svc := rfl
@[simp] theorem setAsyncFault_dispS : s.setAsyncFault.block.dispS = s.block.dispS := rfl
@[simp] theorem setAsyncFault_dispA : s.setAsyncFault.block.dispA = s.block.dispA := rfl

/-! ### `State.setWatch` -/

@[simp] theorem setWatch_mode (i : PinIdx) (h : Tok) : (s.setWatch i h).mode = s.mode := rfl
@[simp] theorem setWatch_turn (i : PinIdx) (h : Tok) : (s.setWatch i h).turn = s.turn := rfl
@[simp] theorem setWatch_env (i : PinIdx) (h : Tok) : (s.setWatch i h).env = s.env := rfl
@[simp] theorem setWatch_hist (i : PinIdx) (h : Tok) : (s.setWatch i h).hist = s.hist := rfl
@[simp] theorem setWatch_address (i : PinIdx) (h : Tok) : (s.setWatch i h).block.address = s.block.address := rfl
@[simp] theorem setWatch_cache (i : PinIdx) (h : Tok) : (s.setWatch i h).block.cache = s.block.cache := rfl
@[simp] theorem setWatch_intBound (i : PinIdx) (h : Tok) : (s.setWatch i h).block.intBound = s.block.intBound := rfl
@[simp] theorem setWatch_intPin (i : PinIdx) (h : Tok) : (s.setWatch i h).block.intPin = s.block.intPin := rfl
@[simp] theorem setWatch_intHandler (i : PinIdx) (h : Tok) : (s.setWatch i h).block.intHandler = s.block.intHandler := rfl
@[simp] theorem setWatch_watch (i : PinIdx) (h : Tok) : (s.setWatch i h).block.watch = s.block.watch.set i (some h) := rfl
@[simp] theorem setWatch_asyncFault (i : PinIdx) (h : Tok) : (s.setWatch i h).block.asyncFault = s.block.asyncFault := rfl
@[simp] theorem setWatch_pulseS (i : PinIdx) (h : Tok) : (s.setWatch i h).block.pulseS = s.block.pulseS := rfl
@[simp] theorem setWatch_pulseA (i : PinIdx) (h : Tok) : (s.setWatch i h).block.pulseA = s.block.pulseA := rfl
@[simp] theorem setWatch_svc (i : PinIdx) (h : Tok) : (s.setWatch i h).block.svc = s.block.svc := rfl
@[simp] theorem setWatch_dispS (i : PinIdx) (h : Tok) : (s.setWatch i h).block.dispS = s.block.dispS := rfl
@[simp] theorem setWatch_dispA (i : PinIdx) (h : Tok) : (s.setWatch i h).block.dispA = s.block.dispA := rfl

/-! ### `State.setX` -/

@[simp] theorem setX_mode (r : Reg) (b : Byte) : (s.setX r b).mode = s.mode := rfl
@[simp] theorem setX_turn (r : Reg) (b : Byte) : (s.setX r b).turn = s.turn := rfl
@[simp] theorem setX_env (r : Reg) (b : Byte) : (s.setX r b).env = s.env := rfl
@[simp] theorem setX_hist (r : Reg) (b : Byte) : (s.setX r b).hist = s.hist := rfl
@[simp] theorem setX_address (r : Reg) (b : Byte) : (s.setX r b).block.address = s.block.address := rfl
@[simp] theorem setX_cache (r : Reg) (b : Byte) : (s.setX r b).block.cache = s.block.cache.set r b := rfl
@[simp] theorem setX_intBound (r : Reg) (b : Byte) : (s.setX r b).block.intBound = s.block.intBound := rfl
@[simp] theorem setX_intPin (r : Reg) (b : Byte) : (s.setX r b).block.intPin = s.block.intPin := rfl
@[simp] theorem setX_intHandler (r : Reg) (b : Byte) : (s.setX r b).block.intHandler = s.block.intHandler := rfl
@[simp] theorem setX_watch (r : Reg) (b : Byte) : (s.setX r b).block.watch = s.block.watch := rfl
@[simp] theorem setX_asyncFault (r : Reg) (b : Byte) : (s.setX r b).block.asyncFault = s.block.asyncFault := rfl
@[simp] theorem setX_pulseS (r : Reg) (b : Byte) : (s.setX r b).block.pulseS = s.block.pulseS := rfl
@[simp] theorem setX_pulseA (r : Reg) (b : Byte) : (s.setX r b).block.pulseA = s.block.pulseA := rfl
@[simp] theorem setX_svc (r : Reg) (b : Byte) : (s.setX r b).block.svc = s.block.svc := rfl
@[simp] theorem setX_dispS (r : Reg) (b : Byte) : (s.setX r b).block.dispS = s.block.dispS := rfl
@[simp] theorem setX_dispA (r : Reg) (b : Byte) : (s.setX r b).block.dispA = s.block.dispA := rfl

/-! ### `State.setSvc` -/

@[simp] theorem setSvc_mode (v : Svc) : (s.setSvc v).mode = s.mode := rfl
@[simp] theorem setSvc_turn (v : Svc) : (s.setSvc v).turn = s.turn := rfl
@[simp] theorem setSvc_env (v : Svc) : (s.setSvc v).env = s.env := rfl
@[simp] theorem setSvc_hist (v : Svc) : (s.setSvc v).hist = s.hist := rfl
@[simp] theorem setSvc_address (v : Svc) : (s.setSvc v).block.address = s.block.address := rfl
@[simp] theorem setSvc_cache (v : Svc) : (s.setSvc v).block.cache = s.block.cache := rfl
@[simp] theorem setSvc_intBound (v : Svc) : (s.setSvc v).block.intBound = s.block.intBound := rfl
@[simp] theorem setSvc_intPin (v : Svc) : (s.setSvc v).block.intPin = s.block.intPin := rfl
@[simp] theorem setSvc_intHandler (v : Svc) : (s.setSvc v).block.intHandler = s.block.intHandler := rfl
@[simp] theorem setSvc_watch (v : Svc) : (s.setSvc v).block.watch = s.block.watch := rfl
@[simp] theorem setSvc_asyncFault (v : Svc) : (s.setSvc v).block.asyncFault = s.block.asyncFault := rfl
@[simp] theorem setSvc_pulseS (v : Svc) : (s.setSvc v).block.pulseS = s.block.pulseS := rfl
@[simp] theorem setSvc_pulseA (v : Svc) : (s.setSvc v).block.pulseA = s.block.pulseA := rfl
@[simp] theorem setSvc_svc (v : Svc) : (s.setSvc v).block.svc = v := rfl
@[simp] theorem setSvc_dispS (v : Svc) : (s.setSvc v).block.dispS = s.block.dispS := rfl
@[simp] theorem setSvc_dispA (v : Svc) : (s.setSvc v).block.dispA = s.block.dispA := rfl

/-! ### `State.logBus` -/

@[simp] theorem logBus_block (t : BusTxn) : (s.logBus t).block = s.block := rfl
@[simp] theorem logBus_mode (t : BusTxn) : (s.logBus t).mode = s.mode := rfl
@[simp] theorem logBus_turn (t : BusTxn) : (s.logBus t).turn = s.turn := rfl
@[simp] theorem logBus_env (t : BusTxn) : (s.logBus t).env = s.env := rfl
@[simp] theorem logBus_bus (t : BusTxn) : (s.logBus t).hist.bus = s.hist.bus ++ [t] := rfl
@[simp] theorem logBus_events (t : BusTxn) : (s.logBus t).hist.events = s.hist.events := rfl
@[simp] theorem logBus_xpin (t : BusTxn) : (s.logBus t).hist.xpin = s.hist.xpin := rfl
@[simp] theorem logBus_responses (t : BusTxn) : (s.logBus t).hist.responses = s.hist.responses := rfl

/-! ### `State.emit` -/

@[simp] theorem emit_block (e : Event) : (s.emit e).block = s.block := rfl
@[simp] theorem emit_mode (e : Event) : (s.emit e).mode = s.mode := rfl
@[simp] theorem emit_turn (e : Event) : (s.emit e).turn = s.turn := rfl
@[simp] theorem emit_env (e : Event) : (s.emit e).env = s.env := rfl
@[simp] theorem emit_bus (e : Event) : (s.emit e).hist.bus = s.hist.bus := rfl
@[simp] theorem emit_events (e : Event) : (s.emit e).hist.events = s.hist.events ++ [e] := rfl
@[simp] theorem emit_xpin (e : Event) : (s.emit e).hist.xpin = s.hist.xpin := rfl
@[simp] theorem emit_responses (e : Event) : (s.emit e).hist.responses = s.hist.responses := rfl

/-! ### `State.logXPin` -/

@[simp] theorem logXPin_block (c : XPinCall) (r : XPinReply) : (s.logXPin c r).block = s.block := rfl
@[simp] theorem logXPin_mode (c : XPinCall) (r : XPinReply) : (s.logXPin c r).mode = s.mode := rfl
@[simp] theorem logXPin_turn (c : XPinCall) (r : XPinReply) : (s.logXPin c r).turn = s.turn := rfl
@[simp] theorem logXPin_env (c : XPinCall) (r : XPinReply) : (s.logXPin c r).env = s.env := rfl
@[simp] theorem logXPin_bus (c : XPinCall) (r : XPinReply) : (s.logXPin c r).hist.bus = s.hist.bus := rfl
@[simp] theorem logXPin_events (c : XPinCall) (r : XPinReply) : (s.logXPin c r).hist.events = s.hist.events := rfl
@[simp] theorem logXPin_xpin (c : XPinCall) (r : XPinReply) : (s.logXPin c r).hist.xpin = s.hist.xpin ++ [(c, r)] := rfl
@[simp] theorem logXPin_responses (c : XPinCall) (r : XPinReply) : (s.logXPin c r).hist.responses = s.hist.responses := rfl

/-! ### `State.respondOn` -/

@[simp] theorem respondOn_block (p : Port) (st : Status) (v : Byte) (d : Option Nat) : (s.respondOn p st v d).block = s.block := rfl
@[simp] theorem respondOn_mode (p : Port) (st : Status) (v : Byte) (d : Option Nat) : (s.respondOn p st v d).mode = s.mode := rfl
@[simp] theorem respondOn_turn (p : Port) (st : Status) (v : Byte) (d : Option Nat) : (s.respondOn p st v d).turn = s.turn := rfl
@[simp] theorem respondOn_env (p : Port) (st : Status) (v : Byte) (d : Option Nat) : (s.respondOn p st v d).env = s.env := rfl
@[simp] theorem respondOn_bus (p : Port) (st : Status) (v : Byte) (d : Option Nat) : (s.respondOn p st v d).hist.bus = s.hist.bus := rfl
@[simp] theorem respondOn_events (p : Port) (st : Status) (v : Byte) (d : Option Nat) : (s.respondOn p st v d).hist.events = s.hist.events := rfl
@[simp] theorem respondOn_xpin (p : Port) (st : Status) (v : Byte) (d : Option Nat) : (s.respondOn p st v d).hist.xpin = s.hist.xpin := rfl
@[simp] theorem respondOn_responses (p : Port) (st : Status) (v : Byte) (d : Option Nat) : (s.respondOn p st v d).hist.responses = s.hist.responses ++ [⟨p, responseWord st v, d⟩] := rfl

/-! ### `State.respond` -/

@[simp] theorem respond_block (st : Status) (v : Byte) : (s.respond st v).block = s.block := rfl
@[simp] theorem respond_mode (st : Status) (v : Byte) : (s.respond st v).mode = s.mode := rfl
@[simp] theorem respond_turn (st : Status) (v : Byte) : (s.respond st v).turn = s.turn := rfl
@[simp] theorem respond_env (st : Status) (v : Byte) : (s.respond st v).env = s.env := rfl
@[simp] theorem respond_bus (st : Status) (v : Byte) : (s.respond st v).hist.bus = s.hist.bus := rfl
@[simp] theorem respond_events (st : Status) (v : Byte) : (s.respond st v).hist.events = s.hist.events := rfl
@[simp] theorem respond_xpin (st : Status) (v : Byte) : (s.respond st v).hist.xpin = s.hist.xpin := rfl
@[simp] theorem respond_responses (st : Status) (v : Byte) : (s.respond st v).hist.responses = s.hist.responses ++ [⟨s.turn, responseWord st v, none⟩] := rfl

/-! ### `State.raise` -/

@[simp] theorem raise_block (r : Raise) : (s.raise r).block = s.block := rfl
@[simp] theorem raise_mode (r : Raise) : (s.raise r).mode = s.mode := rfl
@[simp] theorem raise_turn (r : Raise) : (s.raise r).turn = s.turn := rfl
@[simp] theorem raise_env (r : Raise) : (s.raise r).env = s.env := rfl
@[simp] theorem raise_bus (r : Raise) : (s.raise r).hist.bus = s.hist.bus := rfl
@[simp] theorem raise_events (r : Raise) : (s.raise r).hist.events = s.hist.events := rfl
@[simp] theorem raise_xpin (r : Raise) : (s.raise r).hist.xpin = s.hist.xpin := rfl
@[simp] theorem raise_responses (r : Raise) : (s.raise r).hist.responses = s.hist.responses ++ [⟨s.turn, responseWord r.status r.value, none⟩] := rfl

/-! ### `State.raiseOn` -/

@[simp] theorem raiseOn_block (p : Port) (r : Raise) : (s.raiseOn p r).block = s.block := rfl
@[simp] theorem raiseOn_mode (p : Port) (r : Raise) : (s.raiseOn p r).mode = s.mode := rfl
@[simp] theorem raiseOn_turn (p : Port) (r : Raise) : (s.raiseOn p r).turn = s.turn := rfl
@[simp] theorem raiseOn_env (p : Port) (r : Raise) : (s.raiseOn p r).env = s.env := rfl
@[simp] theorem raiseOn_bus (p : Port) (r : Raise) : (s.raiseOn p r).hist.bus = s.hist.bus := rfl
@[simp] theorem raiseOn_events (p : Port) (r : Raise) : (s.raiseOn p r).hist.events = s.hist.events := rfl
@[simp] theorem raiseOn_xpin (p : Port) (r : Raise) : (s.raiseOn p r).hist.xpin = s.hist.xpin := rfl
@[simp] theorem raiseOn_responses (p : Port) (r : Raise) : (s.raiseOn p r).hist.responses = s.hist.responses ++ [⟨p, responseWord r.status r.value, none⟩] := rfl

/-! ### `State.tookBus` -/

@[simp] theorem tookBus_block : s.tookBus.block = s.block := rfl
@[simp] theorem tookBus_mode : s.tookBus.mode = s.mode := rfl
@[simp] theorem tookBus_turn : s.tookBus.turn = s.turn := rfl
@[simp] theorem tookBus_hist : s.tookBus.hist = s.hist := rfl
@[simp] theorem tookBus_moves : s.tookBus.env.moves = s.env.moves := rfl
@[simp] theorem tookBus_bus : s.tookBus.env.bus = s.env.bus.tail := rfl
@[simp] theorem tookBus_xpin : s.tookBus.env.xpin = s.env.xpin := rfl
@[simp] theorem tookBus_clock : s.tookBus.env.clock = s.env.clock := rfl
@[simp] theorem tookBus_tick : s.tookBus.env.tick = s.env.tick + 1 := rfl

/-! ### `State.tookXPin` -/

@[simp] theorem tookXPin_block : s.tookXPin.block = s.block := rfl
@[simp] theorem tookXPin_mode : s.tookXPin.mode = s.mode := rfl
@[simp] theorem tookXPin_turn : s.tookXPin.turn = s.turn := rfl
@[simp] theorem tookXPin_hist : s.tookXPin.hist = s.hist := rfl
@[simp] theorem tookXPin_moves : s.tookXPin.env.moves = s.env.moves := rfl
@[simp] theorem tookXPin_bus : s.tookXPin.env.bus = s.env.bus := rfl
@[simp] theorem tookXPin_xpin : s.tookXPin.env.xpin = s.env.xpin.tail := rfl
@[simp] theorem tookXPin_clock : s.tookXPin.env.clock = s.env.clock := rfl
@[simp] theorem tookXPin_tick : s.tookXPin.env.tick = s.env.tick + 1 := rfl

/-! ### `State.tookTime` -/

@[simp] theorem tookTime_block : s.tookTime.block = s.block := rfl
@[simp] theorem tookTime_mode : s.tookTime.mode = s.mode := rfl
@[simp] theorem tookTime_turn : s.tookTime.turn = s.turn := rfl
@[simp] theorem tookTime_hist : s.tookTime.hist = s.hist := rfl
@[simp] theorem tookTime_moves : s.tookTime.env.moves = s.env.moves := rfl
@[simp] theorem tookTime_bus : s.tookTime.env.bus = s.env.bus := rfl
@[simp] theorem tookTime_xpin : s.tookTime.env.xpin = s.env.xpin := rfl
@[simp] theorem tookTime_clock : s.tookTime.env.clock = s.env.clock.tail := rfl
@[simp] theorem tookTime_tick : s.tookTime.env.tick = s.env.tick + 1 := rfl

/-! ### `State.withMoves` -/

@[simp] theorem withMoves_block (ms : List Move) : (s.withMoves ms).block = s.block := rfl
@[simp] theorem withMoves_mode (ms : List Move) : (s.withMoves ms).mode = s.mode := rfl
@[simp] theorem withMoves_turn (ms : List Move) : (s.withMoves ms).turn = s.turn := rfl
@[simp] theorem withMoves_hist (ms : List Move) : (s.withMoves ms).hist = s.hist := rfl
@[simp] theorem withMoves_moves (ms : List Move) : (s.withMoves ms).env.moves = ms := rfl
@[simp] theorem withMoves_bus (ms : List Move) : (s.withMoves ms).env.bus = s.env.bus := rfl
@[simp] theorem withMoves_xpin (ms : List Move) : (s.withMoves ms).env.xpin = s.env.xpin := rfl
@[simp] theorem withMoves_clock (ms : List Move) : (s.withMoves ms).env.clock = s.env.clock := rfl
@[simp] theorem withMoves_tick (ms : List Move) : (s.withMoves ms).env.tick = s.env.tick := rfl

/-! ### `State.tookChoice` -/

@[simp] theorem tookChoice_block : s.tookChoice.block = s.block := rfl
@[simp] theorem tookChoice_mode : s.tookChoice.mode = s.mode := rfl
@[simp] theorem tookChoice_turn : s.tookChoice.turn = s.turn := rfl
@[simp] theorem tookChoice_hist : s.tookChoice.hist = s.hist := rfl
@[simp] theorem tookChoice_moves : s.tookChoice.env.moves = s.env.moves := rfl
@[simp] theorem tookChoice_bus : s.tookChoice.env.bus = s.env.bus := rfl
@[simp] theorem tookChoice_xpin : s.tookChoice.env.xpin = s.env.xpin := rfl
@[simp] theorem tookChoice_clock : s.tookChoice.env.clock = s.env.clock := rfl
@[simp] theorem tookChoice_tick : s.tookChoice.env.tick = s.env.tick + 1 := rfl

/-! ### `State.onPort` -/

@[simp] theorem onPort_block (p : Port) : (s.onPort p).block = s.block := rfl
@[simp] theorem onPort_mode (p : Port) : (s.onPort p).mode = s.mode := rfl
@[simp] theorem onPort_turn (p : Port) : (s.onPort p).turn = p := rfl
@[simp] theorem onPort_env (p : Port) : (s.onPort p).env = s.env := rfl
@[simp] theorem onPort_hist (p : Port) : (s.onPort p).hist = s.hist := rfl

/-! ### The per-port fields -/

@[simp] theorem setPulse_mode (p : Port) (v : Pulse) : (s.setPulse p v).mode = s.mode := by cases p <;> rfl
@[simp] theorem setPulse_turn (p : Port) (v : Pulse) : (s.setPulse p v).turn = s.turn := by cases p <;> rfl
@[simp] theorem setPulse_env (p : Port) (v : Pulse) : (s.setPulse p v).env = s.env := by cases p <;> rfl
@[simp] theorem setPulse_hist (p : Port) (v : Pulse) : (s.setPulse p v).hist = s.hist := by cases p <;> rfl
@[simp] theorem setPulse_address (p : Port) (v : Pulse) : (s.setPulse p v).block.address = s.block.address := by cases p <;> rfl
@[simp] theorem setPulse_cache (p : Port) (v : Pulse) : (s.setPulse p v).block.cache = s.block.cache := by cases p <;> rfl
@[simp] theorem setPulse_intBound (p : Port) (v : Pulse) : (s.setPulse p v).block.intBound = s.block.intBound := by cases p <;> rfl
@[simp] theorem setPulse_intPin (p : Port) (v : Pulse) : (s.setPulse p v).block.intPin = s.block.intPin := by cases p <;> rfl
@[simp] theorem setPulse_intHandler (p : Port) (v : Pulse) : (s.setPulse p v).block.intHandler = s.block.intHandler := by cases p <;> rfl
@[simp] theorem setPulse_watch (p : Port) (v : Pulse) : (s.setPulse p v).block.watch = s.block.watch := by cases p <;> rfl
@[simp] theorem setPulse_asyncFault (p : Port) (v : Pulse) : (s.setPulse p v).block.asyncFault = s.block.asyncFault := by cases p <;> rfl
@[simp] theorem setPulse_svc (p : Port) (v : Pulse) : (s.setPulse p v).block.svc = s.block.svc := by cases p <;> rfl
@[simp] theorem setPulse_dispS (p : Port) (v : Pulse) : (s.setPulse p v).block.dispS = s.block.dispS := by cases p <;> rfl
@[simp] theorem setPulse_dispA (p : Port) (v : Pulse) : (s.setPulse p v).block.dispA = s.block.dispA := by cases p <;> rfl
@[simp] theorem setPulse_pulse_same (p : Port) (v : Pulse) : (s.setPulse p v).block.pulse p = v := by cases p <;> rfl
@[simp] theorem setPulse_disp (p q : Port) (v : Pulse) : (s.setPulse p v).block.disp q = s.block.disp q := by
  cases p <;> cases q <;> rfl
theorem setPulse_pulse_of_ne (p q : Port) (v : Pulse) (h : q ≠ p) : (s.setPulse p v).block.pulse q = s.block.pulse q := by
  cases p <;> cases q <;> first | rfl | exact absurd rfl h

@[simp] theorem setDisp_mode (p : Port) (v : List Fanout) : (s.setDisp p v).mode = s.mode := by cases p <;> rfl
@[simp] theorem setDisp_turn (p : Port) (v : List Fanout) : (s.setDisp p v).turn = s.turn := by cases p <;> rfl
@[simp] theorem setDisp_env (p : Port) (v : List Fanout) : (s.setDisp p v).env = s.env := by cases p <;> rfl
@[simp] theorem setDisp_hist (p : Port) (v : List Fanout) : (s.setDisp p v).hist = s.hist := by cases p <;> rfl
@[simp] theorem setDisp_address (p : Port) (v : List Fanout) : (s.setDisp p v).block.address = s.block.address := by cases p <;> rfl
@[simp] theorem setDisp_cache (p : Port) (v : List Fanout) : (s.setDisp p v).block.cache = s.block.cache := by cases p <;> rfl
@[simp] theorem setDisp_intBound (p : Port) (v : List Fanout) : (s.setDisp p v).block.intBound = s.block.intBound := by cases p <;> rfl
@[simp] theorem setDisp_intPin (p : Port) (v : List Fanout) : (s.setDisp p v).block.intPin = s.block.intPin := by cases p <;> rfl
@[simp] theorem setDisp_intHandler (p : Port) (v : List Fanout) : (s.setDisp p v).block.intHandler = s.block.intHandler := by cases p <;> rfl
@[simp] theorem setDisp_watch (p : Port) (v : List Fanout) : (s.setDisp p v).block.watch = s.block.watch := by cases p <;> rfl
@[simp] theorem setDisp_asyncFault (p : Port) (v : List Fanout) : (s.setDisp p v).block.asyncFault = s.block.asyncFault := by cases p <;> rfl
@[simp] theorem setDisp_pulseS (p : Port) (v : List Fanout) : (s.setDisp p v).block.pulseS = s.block.pulseS := by cases p <;> rfl
@[simp] theorem setDisp_pulseA (p : Port) (v : List Fanout) : (s.setDisp p v).block.pulseA = s.block.pulseA := by cases p <;> rfl
@[simp] theorem setDisp_svc (p : Port) (v : List Fanout) : (s.setDisp p v).block.svc = s.block.svc := by cases p <;> rfl
@[simp] theorem setDisp_disp_same (p : Port) (v : List Fanout) : (s.setDisp p v).block.disp p = v := by cases p <;> rfl
@[simp] theorem setDisp_pulse (p q : Port) (v : List Fanout) : (s.setDisp p v).block.pulse q = s.block.pulse q := by
  cases p <;> cases q <;> rfl
theorem setDisp_disp_of_ne (p q : Port) (v : List Fanout) (h : q ≠ p) : (s.setDisp p v).block.disp q = s.block.disp q := by
  cases p <;> cases q <;> first | rfl | exact absurd rfl h

/-! ### Cache registers -/

@[simp] theorem Cache.get_set_same (c : Cache) (r : Reg) (b : Byte) : (c.set r b).get r = b := by cases r <;> rfl

theorem Cache.get_set_of_ne (c : Cache) (r q : Reg) (b : Byte) (h : q ≠ r) : (c.set r b).get q = c.get q := by
  cases r <;> cases q <;> first | rfl | exact absurd rfl h

theorem Cache.get_set (c : Cache) (r q : Reg) (b : Byte) : (c.set r b).get q = if q = r then b else c.get q := by
  cases r <;> cases q <;> rfl

@[simp] theorem Cache.set_set (c : Cache) (r : Reg) (a b : Byte) : (c.set r a).set r b = c.set r b := by cases r <;> rfl

@[simp] theorem Cache.set_get_self (c : Cache) (r : Reg) : c.set r (c.get r) = c := by cases r <;> rfl

@[simp] theorem setX_x (r q : Reg) (b : Byte) : (s.setX r b).x q = if q = r then b else s.x q :=
  Cache.get_set _ _ _ _

/-! ### The watcher table -/

@[simp] theorem clearWatch_mode (i : PinIdx) : (s.clearWatch i).mode = s.mode := rfl
@[simp] theorem clearWatch_turn (i : PinIdx) : (s.clearWatch i).turn = s.turn := rfl
@[simp] theorem clearWatch_env (i : PinIdx) : (s.clearWatch i).env = s.env := rfl
@[simp] theorem clearWatch_hist (i : PinIdx) : (s.clearWatch i).hist = s.hist := rfl

@[simp] theorem clearWatch_address (i : PinIdx) : (s.clearWatch i).block.address = s.block.address := by
  cases hm : s.mode <;> simp [State.clearWatch, hm, Block.noteRemoved]
@[simp] theorem clearWatch_cache (i : PinIdx) : (s.clearWatch i).block.cache = s.block.cache := by
  cases hm : s.mode <;> simp [State.clearWatch, hm, Block.noteRemoved]
@[simp] theorem clearWatch_intBound (i : PinIdx) : (s.clearWatch i).block.intBound = s.block.intBound := by
  cases hm : s.mode <;> simp [State.clearWatch, hm, Block.noteRemoved]
@[simp] theorem clearWatch_intPin (i : PinIdx) : (s.clearWatch i).block.intPin = s.block.intPin := by
  cases hm : s.mode <;> simp [State.clearWatch, hm, Block.noteRemoved]
@[simp] theorem clearWatch_intHandler (i : PinIdx) : (s.clearWatch i).block.intHandler = s.block.intHandler := by
  cases hm : s.mode <;> simp [State.clearWatch, hm, Block.noteRemoved]
@[simp] theorem clearWatch_asyncFault (i : PinIdx) : (s.clearWatch i).block.asyncFault = s.block.asyncFault := by
  cases hm : s.mode <;> simp [State.clearWatch, hm, Block.noteRemoved]
@[simp] theorem clearWatch_pulseS (i : PinIdx) : (s.clearWatch i).block.pulseS = s.block.pulseS := by
  cases hm : s.mode <;> simp [State.clearWatch, hm, Block.noteRemoved]
@[simp] theorem clearWatch_pulseA (i : PinIdx) : (s.clearWatch i).block.pulseA = s.block.pulseA := by
  cases hm : s.mode <;> simp [State.clearWatch, hm, Block.noteRemoved]

@[simp] theorem clearWatch_watch (i : PinIdx) : (s.clearWatch i).block.watch = s.block.watch.set i none := by
  cases hm : s.mode <;> simp [State.clearWatch, hm, Block.noteRemoved]

/-- In snapshot mode removing an entry changes the table and nothing else of the record. -/
theorem clearWatch_snapshot (i : PinIdx) (hm : s.mode = .snapshot) :
    (s.clearWatch i).block = { s.block with watch := s.block.watch.set i none } := by
  simp [State.clearWatch, hm]

/-- In live mode the dispatches in progress note the removal. -/
theorem clearWatch_live (i : PinIdx) (hm : s.mode = .live) :
    (s.clearWatch i).block = { s.block with watch := s.block.watch.set i none }.noteRemoved i := by
  simp [State.clearWatch, hm]

theorem watch_get_set (w : Vector (Option Tok) 8) (i j : PinIdx) (v : Option Tok) :
    (w.set i v).get j = if j = i then v else w.get j := by
  simp only [Vector.get_eq_getElem, Vector.getElem_set, Fin.val_inj, eq_comm]

/-! ### States are equal when their parts are -/

theorem State.ext_parts {s t : State} (hb : s.block = t.block) (hm : s.mode = t.mode) (ht : s.turn = t.turn)
    (he : s.env = t.env) (hh : s.hist = t.hist) : s = t := by
  cases s; cases t; simp_all

end Sys2Proof.Machine
end

