-- ==== Sys2Proof/Laws/Compare.lean ====
section
/-! SUPPORT. The updates that the claims compare states by (Safety.lean), field by field, and what the history operations
append. -/

namespace Sys2Proof.Machine

variable (s : State)

/-! ### `State.withHist` -/

@[simp] theorem withHist_block (h : Hist) : (s.withHist h).block = s.block := rfl
@[simp] theorem withHist_mode (h : Hist) : (s.withHist h).mode = s.mode := rfl
@[simp] theorem withHist_turn (h : Hist) : (s.withHist h).turn = s.turn := rfl
@[simp] theorem withHist_env (h : Hist) : (s.withHist h).env = s.env := rfl
@[simp] theorem withHist_hist (h : Hist) : (s.withHist h).hist = h := rfl

/-! ### `State.withAsyncFault` and `State.withTokens` -/

@[simp] theorem withAsyncFault_mode (b : Bool) : (s.withAsyncFault b).mode = s.mode := rfl
@[simp] theorem withAsyncFault_turn (b : Bool) : (s.withAsyncFault b).turn = s.turn := rfl
@[simp] theorem withAsyncFault_env (b : Bool) : (s.withAsyncFault b).env = s.env := rfl
@[simp] theorem withAsyncFault_hist (b : Bool) : (s.withAsyncFault b).hist = s.hist := rfl
@[simp] theorem withAsyncFault_block (b : Bool) : (s.withAsyncFault b).block = { s.block with asyncFault := b } := rfl

@[simp] theorem withTokens_mode (xp h : Tok) : (s.withTokens xp h).mode = s.mode := rfl
@[simp] theorem withTokens_turn (xp h : Tok) : (s.withTokens xp h).turn = s.turn := rfl
@[simp] theorem withTokens_env (xp h : Tok) : (s.withTokens xp h).env = s.env := rfl
@[simp] theorem withTokens_hist (xp h : Tok) : (s.withTokens xp h).hist = s.hist := rfl
@[simp] theorem withTokens_block (xp h : Tok) :
    (s.withTokens xp h).block = { s.block with intPin := xp, intHandler := h } := rfl

/-! ### `outMap` -/

@[simp] theorem outMap_next (f : State → State) (t : State) : outMap f (.next t) = .next (f t) := rfl
@[simp] theorem outMap_fault (f : State → State) (r : Fault) : outMap f (.fault r) = .fault r := rfl
@[simp] theorem outMap_refused (f : State → State) (r : Refusal) : outMap f (.refused r) = .refused r := rfl

/-! ### Histories appended -/

@[simp] theorem hist_append_empty (h : Hist) : h.append Hist.empty = h := by simp [Hist.append, Hist.empty]

theorem hist_append_assoc (h d e : Hist) : (h.append d).append e = h.append (d.append e) := by simp [Hist.append]

theorem logBus_append (t : BusTxn) : (s.logBus t).hist = s.hist.append { Hist.empty with bus := [t] } := by
  simp [State.logBus, Hist.append, Hist.empty]

theorem emit_append (e : Event) : (s.emit e).hist = s.hist.append { Hist.empty with events := [e] } := by
  simp [State.emit, Hist.append, Hist.empty]

theorem logXPin_append (c : XPinCall) (r : XPinReply) :
    (s.logXPin c r).hist = s.hist.append { Hist.empty with xpin := [(c, r)] } := by
  simp [State.logXPin, Hist.append, Hist.empty]

theorem respondOn_append (p : Port) (st : Status) (v : Byte) (d : Option Nat) :
    (s.respondOn p st v d).hist = s.hist.append { Hist.empty with responses := [⟨p, responseWord st v, d⟩] } := by
  simp [State.respondOn, Hist.append, Hist.empty]

end Sys2Proof.Machine
end

