-- ==== Sys2Proof/Laws/Ops.lean ====
section
/-! SUPPORT. For each shared operation, once, everything it can do. -/

namespace Sys2Proof.Machine

variable {s t : State}

/-! ### A step with one bus transaction -/

theorem guardBus_answered (h : s.busSilent = false) : guardBus s t = .next t := by simp [guardBus, h]

theorem guardBus_silent (h : s.busSilent = true) : guardBus s t = .fault .busSilent := by simp [guardBus, h]

/-- A guarded step that answers a next state answers the one it was given. -/
theorem guardBus_eq_next {u : State} (h : guardBus s t = .next u) : s.busSilent = false ∧ u = t := by
  cases hb : s.busSilent with
  | true => rw [guardBus_silent hb] at h; cases h
  | false => rw [guardBus_answered hb] at h; injection h with h; exact ⟨rfl, h.symm⟩

/-! ### The two contracts -/

theorem deviceRead_ok {r : Reg} {b : Byte} (h : s.busReply = .ok b) :
    deviceRead r s = (.ok b, (s.tookBus.logBus (.read s.block.address r (.ok b))).setX r b) := by
  simp [deviceRead, memRead, h]

theorem deviceRead_err {r : Reg} {e : Byte} (h : s.busReply = .err e) :
    deviceRead r s = (.err e, s.tookBus.logBus (.read s.block.address r (.err e))) := by
  simp [deviceRead, memRead, h]

theorem deviceWrite_ok {r : Reg} {b v : Byte} (h : s.busReply = .ok v) :
    deviceWrite r b s = (.ok, (s.tookBus.logBus (.write s.block.address r b .ok)).setX r b) := by
  simp [deviceWrite, memWrite, writeReplyOf, h]

theorem deviceWrite_err {r : Reg} {b e : Byte} (h : s.busReply = .err e) :
    deviceWrite r b s = (.err e, s.tookBus.logBus (.write s.block.address r b (.err e))) := by
  simp [deviceWrite, memWrite, writeReplyOf, h]

/-! ### The commands made of one contract -/

theorem writeCommand_ok {r : Reg} {b v : Byte} (h : s.busReply = .ok v) :
    writeCommand r b s =
      ((s.tookBus.logBus (.write s.block.address r b .ok)).setX r b).respond .ok 0x00 := by
  simp [writeCommand, deviceWrite_ok h]

theorem writeCommand_err {r : Reg} {b e : Byte} (h : s.busReply = .err e) :
    writeCommand r b s = (s.tookBus.logBus (.write s.block.address r b (.err e))).raise (.busError e) := by
  simp [writeCommand, deviceWrite_err h]

theorem readCommand_ok {r : Reg} {b : Byte} (h : s.busReply = .ok b) :
    readCommand r s = ((s.tookBus.logBus (.read s.block.address r (.ok b))).setX r b).respond .ok b := by
  simp [readCommand, deviceRead_ok h]

theorem readCommand_err {r : Reg} {e : Byte} (h : s.busReply = .err e) :
    readCommand r s = (s.tookBus.logBus (.read s.block.address r (.err e))).raise (.busError e) := by
  simp [readCommand, deviceRead_err h]

/-! ### The fan-out -/

theorem mem_selectPairs {w : Vector (Option Tok) 8} {b : Byte} {i : PinIdx} {h : Tok} :
    (i, h) ∈ selectPairs w b ↔ w.get i = some h ∧ pinHigh b i = true := by
  have hall : i ∈ allPins := by revert i; decide
  simp only [selectPairs, List.mem_filterMap]
  constructor
  · rintro ⟨j, -, hj⟩
    split at hj
    · rename_i hp
      rw [Option.map_eq_some_iff] at hj
      obtain ⟨h', hw, he⟩ := hj
      cases he
      exact ⟨hw, hp⟩
    · cases hj
  · rintro ⟨hw, hp⟩
    exact ⟨i, hall, by simp [hp, hw]⟩

theorem filterMap_pins_nodup (w : Vector (Option Tok) 8) (b : Byte) (l : List PinIdx) (hl : l.Nodup) :
    ((l.filterMap fun i => if pinHigh b i then (w.get i).map fun h => (i, h) else none).map Prod.fst).Nodup ∧
      ∀ i ∈ (l.filterMap fun i => if pinHigh b i then (w.get i).map fun h => (i, h) else none).map Prod.fst, i ∈ l := by
  induction l with
  | nil => simp
  | cons a l ih =>
    obtain ⟨hn, hm⟩ := ih hl.of_cons
    have ha := (List.nodup_cons.mp hl).1
    by_cases hp : pinHigh b a
    · cases hw : w.get a with
      | none => simp only [List.filterMap_cons, hp, hw]; exact ⟨hn, fun i hi => List.mem_cons_of_mem _ (hm i hi)⟩
      | some h =>
        simp only [List.filterMap_cons, hp, hw]
        refine ⟨List.nodup_cons.mpr ⟨fun hc => ha (hm _ hc), hn⟩, fun i hi => ?_⟩
        rcases List.mem_cons.mp hi with rfl | hi
        · exact List.mem_cons_self
        · exact List.mem_cons_of_mem _ (hm i hi)
    · simp only [List.filterMap_cons, hp]
      exact ⟨hn, fun i hi => List.mem_cons_of_mem _ (hm i hi)⟩

/-- A dispatch selects each pin at most once. -/
theorem selectPairs_nodup (w : Vector (Option Tok) 8) (b : Byte) : ((selectPairs w b).map Prod.fst).Nodup :=
  (filterMap_pins_nodup w b allPins (by decide)).1

/-- What `pick` answers is a candidate, and it answers none only when nothing is owed. -/
theorem pick_cases {m : DispatchMode} {w : Vector (Option Tok) 8} {k : Nat} {f : Fanout} :
    (∃ q, f.pick m w k = some q ∧ q ∈ f.candidates m w) ∨ (f.pick m w k = none ∧ f.obliged m = []) := by
  unfold Fanout.pick
  cases hg : (f.candidates m w)[k % ((f.candidates m w).length + if (f.obliged m).isEmpty then 1 else 0)]? with
  | some q => exact .inl ⟨q, rfl, List.mem_of_getElem? hg⟩
  | none =>
    refine .inr ⟨rfl, ?_⟩
    by_contra ho
    have hlen : 0 < (f.candidates m w).length := by
      cases m with
      | snapshot => exact List.length_pos_iff.mpr ho
      | live =>
        have hp : f.pending ≠ [] := fun hp => ho (by simp [Fanout.obliged, hp])
        simp only [Fanout.candidates, List.length_append]
        have := List.length_pos_iff.mpr hp
        omega
    rw [List.getElem?_eq_none_iff] at hg
    simp only [List.isEmpty_iff, ho, if_false, Nat.add_zero] at hg
    have := Nat.mod_lt k hlen
    omega

/-- A candidate's entry has its bit set and was not invoked by this dispatch. -/
theorem candidate_fresh {m : DispatchMode} {w : Vector (Option Tok) 8} {f : Fanout} {q : PinIdx × Tok}
    (hf : (f.pending.map Prod.fst ++ f.invoked).Nodup)
    (ho : ∀ q ∈ f.pending, pinHigh f.byte q.1 = true) (hq : q ∈ f.candidates m w) :
    q.1 ∉ f.invoked ∧ pinHigh f.byte q.1 = true := by
  have hold : q ∈ f.pending → q.1 ∉ f.invoked ∧ pinHigh f.byte q.1 = true := fun hp =>
    ⟨fun hi => (List.nodup_append.mp hf).2.2 q.1 (List.mem_map_of_mem hp) q.1 hi rfl, ho q hp⟩
  cases m with
  | snapshot => exact hold hq
  | live =>
    rcases List.mem_append.mp hq with hp | hp
    · exact hold hp
    · obtain ⟨hsel, hnew⟩ := List.mem_filter.mp hp
      simp only [Bool.and_eq_true, Bool.not_eq_true', List.contains_eq_mem, decide_eq_false_iff_not] at hnew
      exact ⟨hnew.1, (mem_selectPairs.mp hsel).2⟩

end Sys2Proof.Machine
end

