-- ==== Sys2Proof/Laws/Step.lean ====
section
/-! SUPPORT. What a step can do, said once: every proof about steps starts from `step_cases`. -/

namespace Sys2Proof.Machine

/-- Two states that differ at most in the environment's inputs. -/
structure SameButEnv (s u : State) : Prop where
  block : u.block = s.block
  mode  : u.mode = s.mode
  turn  : u.turn = s.turn
  hist  : u.hist = s.hist

theorem sameButEnv_withMoves (s : State) (ms : List Move) : SameButEnv s (s.withMoves ms) := ⟨rfl, rfl, rfl, rfl⟩

theorem sameButEnv_tookChoice (s : State) : SameButEnv s s.tookChoice := ⟨rfl, rfl, rfl, rfl⟩

theorem advance_idle {p : Port} {k : Nat} {s : State} (h : s.block.pulse p = .idle) :
    advance p k s = .next (advanceHandlers p k s) := by simp [advance, h]

theorem advance_polling {p : Port} {k : Nat} {s : State} (h : s.block.pulse p ≠ .idle) : advance p k s = poll p s := by
  simp [advance, h]

/-- The ways a step answers a next state. -/
theorem step_cases {s t : State} (h : step s = .next t) :
    (∃ p w ms i, s.env.moves = .command p w :: ms ∧ s.mayCommand p = true ∧ decode w = some i ∧
      exec i ((s.withMoves ms).onPort p) = .next t) ∨
    (∃ p w ms, s.env.moves = .command p w :: ms ∧ s.mayCommand p = true ∧ decode w = none ∧
      t = ((s.withMoves ms).onPort p).raise .illegal) ∨
    (∃ ms, s.env.moves = .edge :: ms ∧ s.block.svc = .idle ∧ s.block.intBound = false ∧ t = s.withMoves ms) ∨
    (∃ ms, s.env.moves = .edge :: ms ∧ s.block.svc = .idle ∧ s.block.intBound = true ∧ s.busSilent = false ∧
      t = serviceEntry (s.withMoves ms)) ∨
    (∃ p u, SameButEnv s u ∧ s.block.pulse p ≠ .idle ∧ poll p u = .next t) ∨
    (∃ p k u, SameButEnv s u ∧ s.block.pulse p = .idle ∧ t = advanceHandlers p k u) ∨
    (∃ p ms, s.env.moves = .ret p :: ms ∧ s.mayReturn p = true ∧ t = handlerReturn p (s.withMoves ms)) ∨
    t = s := by
  have hadv : ∀ p k u, SameButEnv s u → advance p k u = .next t →
      (∃ p u, SameButEnv s u ∧ s.block.pulse p ≠ .idle ∧ poll p u = .next t) ∨
      (∃ p k u, SameButEnv s u ∧ s.block.pulse p = .idle ∧ t = advanceHandlers p k u) := by
    intro p k u hu ha
    by_cases hp : s.block.pulse p = .idle
    · rw [advance_idle (by rw [hu.block]; exact hp)] at ha
      injection ha with ha
      exact .inr ⟨p, k, u, hu, hp, ha.symm⟩
    · rw [advance_polling (by rw [hu.block]; exact hp)] at ha
      exact .inl ⟨p, u, hu, hp, ha⟩
  unfold step stepWith at h
  cases hm : s.env.moves with
  | nil =>
    simp only [hm] at h
    cases hn : s.nextPort with
    | none =>
      simp only [hn] at h
      injection h with h
      exact .inr (.inr (.inr (.inr (.inr (.inr (.inr h.symm))))))
    | some p =>
      simp only [hn] at h
      rcases hadv _ _ _ (sameButEnv_tookChoice s) h with h | h
      · exact .inr (.inr (.inr (.inr (.inl h))))
      · exact .inr (.inr (.inr (.inr (.inr (.inl h)))))
  | cons m ms =>
    simp only [hm] at h
    cases m with
    | command p w =>
      simp only [runMove, issue] at h
      split at h
      · rename_i hmay
        cases hd : decode w with
        | some i => simp only [hd] at h; exact .inl ⟨p, w, ms, i, rfl, hmay, hd, h⟩
        | none =>
          simp only [hd] at h
          injection h with h
          exact .inr (.inl ⟨p, w, ms, rfl, hmay, hd, h.symm⟩)
      · cases h
    | edge =>
      simp only [runMove, serveEdge] at h
      by_cases hsvc : (s.withMoves ms).block.svc = .idle
      · rw [if_pos hsvc] at h
        by_cases hb : (s.withMoves ms).block.intBound = true
        · rw [if_pos hb] at h
          obtain ⟨hs, ht⟩ := guardBus_eq_next h
          exact .inr (.inr (.inr (.inl ⟨ms, rfl, hsvc, hb, hs, ht⟩)))
        · rw [if_neg hb] at h
          injection h with h
          exact .inr (.inr (.inl ⟨ms, rfl, hsvc, Bool.eq_false_iff.mpr hb, h.symm⟩))
      · rw [if_neg hsvc] at h
        cases h
    | advance p k =>
      simp only [runMove] at h
      rcases hadv _ _ _ (sameButEnv_withMoves s ms) h with h | h
      · exact .inr (.inr (.inr (.inr (.inl h))))
      · exact .inr (.inr (.inr (.inr (.inr (.inl h)))))
    | ret p =>
      simp only [runMove] at h
      split at h
      · rename_i hr
        injection h with h
        exact .inr (.inr (.inr (.inr (.inr (.inr (.inl ⟨p, ms, rfl, hr, h.symm⟩))))))
      · cases h

/-- What a poll that answers a next state does to the record: only `x[IN]` and its own port's phase change. -/
theorem poll_block {p : Port} {s t : State} (h : poll p s = .next t) :
    ∃ b v, t.block = { (s.setPulse p v).block with cache := s.block.cache.set .inp b } := by
  have keep : s.block = { (s.setPulse p (s.block.pulse p)).block with cache := s.block.cache.set .inp (s.x .inp) } := by
    cases p <;> rfl
  have hread : ∀ b u, deviceRead .inp s = (.ok b, u) → u.block = { s.block with cache := s.block.cache.set .inp b } := by
    intro b u hu
    cases hr : s.busReply with
    | ok c => rw [deviceRead_ok hr] at hu; obtain ⟨h1, h2⟩ := Prod.mk.inj hu; cases h1; subst h2; rfl
    | err e => rw [deviceRead_err hr] at hu; cases (Prod.mk.inj hu).1
  have hfail : ∀ e u, deviceRead .inp s = (.err e, u) → (pollFailed p e u).block = (s.setPulse p .idle).block := by
    intro e u hu
    cases hr : s.busReply with
    | ok c => rw [deviceRead_ok hr] at hu; cases (Prod.mk.inj hu).1
    | err c =>
      rw [deviceRead_err hr] at hu
      obtain ⟨-, h2⟩ := Prod.mk.inj hu
      subst h2
      cases p <;> rfl
  have hfail' : ∀ e u, deviceRead .inp s = (.err e, u) → ∃ b v, (pollFailed p e u).block =
      { (s.setPulse p v).block with cache := s.block.cache.set .inp b } := by
    intro e u hu
    refine ⟨s.x .inp, .idle, (hfail e u hu).trans ?_⟩
    cases p <;> rfl
  have hset : ∀ b u v, deviceRead .inp s = (.ok b, u) →
      (u.setPulse p v).block = { (s.setPulse p v).block with cache := s.block.cache.set .inp b } := by
    intro b u v hu
    cases p <;> simp [State.setPulse, hread b u hu]
  unfold poll at h
  cases hp : s.block.pulse p with
  | idle => simp only [hp] at h; injection h with h; subst h; exact ⟨_, _, keep⟩
  | drain i l =>
    simp only [hp] at h
    obtain ⟨-, rfl⟩ := guardBus_eq_next h
    rcases hd : deviceRead .inp s with ⟨b | e, u⟩
    · simp only [drainPoll, hd]; exact ⟨b, _, hset b u _ hd⟩
    · simp only [drainPoll, hd]; exact hfail' e u hd
  | waitStart i l =>
    simp only [hp] at h
    obtain ⟨-, rfl⟩ := guardBus_eq_next h
    rcases hd : deviceRead .inp s with ⟨b | e, u⟩
    · simp only [startPoll, hd]
      split
      · refine ⟨b, .timing i l u.startTime, ?_⟩
        have : (u.tookTime.setPulse p (.timing i l u.startTime)).block = (u.setPulse p (.timing i l u.startTime)).block := by
          cases p <;> rfl
        rw [this]; exact hset b u _ hd
      · refine ⟨b, s.block.pulse p, (hread b u hd).trans ?_⟩
        cases p <;> rfl
    · simp only [startPoll, hd]; exact hfail' e u hd
  | timing i l t0 =>
    simp only [hp] at h
    split at h
    · cases h
    · rcases hd : deviceRead .inp s with ⟨b | e, u⟩
      · simp only [timingPoll, hd] at h
        split at h
        · injection h with h; subst h
          refine ⟨b, s.block.pulse p, (hread b u hd).trans ?_⟩
          cases p <;> rfl
        · split at h
          · cases h
          · injection h with h; subst h
            refine ⟨b, .idle, ?_⟩
            have : ((u.tookTime.setPulse p .idle).respondOn p .ok 0x00 (some (u.endTime t0 - t0))).block =
                (u.setPulse p .idle).block := by cases p <;> rfl
            rw [this]; exact hset b u _ hd
      · simp only [timingPoll, hd] at h
        injection h with h; subst h
        exact hfail' e u hd

end Sys2Proof.Machine
end

