-- ==== Sys2Proof/Laws/Effects.lean ====
section
/-! SUPPORT. What each command, poll, fan-out step and whole step does to the bus history and the cache, said once. -/

namespace Sys2Proof.Machine

/-- The two ways the read contract ends. -/
theorem deviceRead_cases (r : Reg) (s : State) :
    (∃ b, s.busReply = .ok b ∧ deviceRead r s = (.ok b, (s.tookBus.logBus (.read s.block.address r (.ok b))).setX r b)) ∨
    (∃ e, s.busReply = .err e ∧ deviceRead r s = (.err e, s.tookBus.logBus (.read s.block.address r (.err e)))) := by
  cases h : s.busReply with
  | ok b => exact .inl ⟨b, rfl, deviceRead_ok h⟩
  | err e => exact .inr ⟨e, rfl, deviceRead_err h⟩

/-- The two ways the write contract ends. -/
theorem deviceWrite_cases (r : Reg) (b : Byte) (s : State) :
    (deviceWrite r b s = (.ok, (s.tookBus.logBus (.write s.block.address r b .ok)).setX r b)) ∨
    (∃ e, deviceWrite r b s = (.err e, s.tookBus.logBus (.write s.block.address r b (.err e)))) := by
  cases h : s.busReply with
  | ok v => exact .inl (deviceWrite_ok h)
  | err e => exact .inr ⟨e, deviceWrite_err h⟩

/-- At most one transaction, at the strapped address and never a write of the input register, with the cache following a
success. -/
def BusEffect (s t : State) : Prop :=
  t.block.address = s.block.address ∧
  ((t.hist.bus = s.hist.bus ∧ t.block.cache = s.block.cache) ∨
  (∃ r b, t.hist.bus = s.hist.bus ++ [.read s.block.address r (.ok b)] ∧ t.block.cache = s.block.cache.set r b) ∨
  (∃ r e, t.hist.bus = s.hist.bus ++ [.read s.block.address r (.err e)] ∧ t.block.cache = s.block.cache) ∨
  (∃ r b, r ≠ .inp ∧ t.hist.bus = s.hist.bus ++ [.write s.block.address r b .ok] ∧ t.block.cache = s.block.cache.set r b) ∨
  (∃ r b e, r ≠ .inp ∧ t.hist.bus = s.hist.bus ++ [.write s.block.address r b (.err e)] ∧ t.block.cache = s.block.cache))

theorem writeCommand_bus (r : Reg) (b : Byte) (s : State) (hr : r ≠ .inp) : BusEffect s (writeCommand r b s) := by
  rcases deviceWrite_cases r b s with h | ⟨e, h⟩ <;> simp only [writeCommand, h]
  · exact ⟨rfl, .inr <| .inr <| .inr <| .inl ⟨r, b, hr, rfl, rfl⟩⟩
  · exact ⟨rfl, .inr <| .inr <| .inr <| .inr ⟨r, b, e, hr, rfl, rfl⟩⟩

theorem readCommand_bus (r : Reg) (s : State) : BusEffect s (readCommand r s) := by
  rcases deviceRead_cases r s with ⟨b, -, h⟩ | ⟨e, -, h⟩ <;> simp only [readCommand, h]
  · exact ⟨rfl, .inr <| .inl ⟨r, b, rfl, rfl⟩⟩
  · exact ⟨rfl, .inr <| .inr <| .inl ⟨r, e, rfl, rfl⟩⟩

theorem busEffect_none {s t : State} (h1 : t.block.address = s.block.address) (h2 : t.hist.bus = s.hist.bus) (h3 : t.block.cache = s.block.cache) : BusEffect s t := ⟨h1, .inl ⟨h2, h3⟩⟩

theorem drainPoll_bus (p i l) (s : State) : BusEffect s (drainPoll p i l s) := by
  rcases deviceRead_cases .inp s with ⟨b, -, h⟩ | ⟨e, -, h⟩ <;> simp only [drainPoll, h]
  · refine ⟨?_, .inr <| .inl ⟨.inp, b, ?_, ?_⟩⟩ <;> cases p <;> rfl
  · refine ⟨?_, .inr <| .inr <| .inl ⟨.inp, e, ?_, ?_⟩⟩ <;> cases p <;> rfl

/-- The ways SETINT answers a next state. -/
theorem setint_cases {xp h : Tok} {s t : State} (he : exec (.setint xp h) s = .next t) :
    (s.block.intBound = true ∧ t = s.raise .configConflict) ∨
    (s.block.intBound = false ∧ s.xpinReply = .fail ∧
      t = (s.tookXPin.logXPin (.setDirectionIn xp) .fail).raise .xpinError) ∨
    (s.block.intBound = false ∧ s.xpinReply = .ok ∧ s.tookXPin.xpinReply = .fail ∧
      t = (((s.tookXPin.logXPin (.setDirectionIn xp) .ok).tookXPin).logXPin (.watchFalling xp) .fail).raise .xpinError) ∨
    (s.block.intBound = false ∧ s.xpinReply = .ok ∧ s.tookXPin.xpinReply = .ok ∧
      t = ((((s.tookXPin.logXPin (.setDirectionIn xp) .ok).tookXPin).logXPin (.watchFalling xp) .ok).bindInt xp h).respond
        .ok 0x00) := by
  cases hb : s.block.intBound with
  | true => simp only [exec, execSetint, hb, if_true] at he; cases he; exact .inl ⟨rfl, rfl⟩
  | false =>
    cases hx : s.xpinSilent with
    | true => simp [exec, execSetint, hb, hx] at he
    | false =>
      cases hr : s.xpinReply with
      | fail =>
        simp [exec, execSetint, hb, hx, xpinCall, hr, setintFinish] at he
        exact .inr (.inl ⟨rfl, rfl, he.symm⟩)
      | ok =>
        cases hy : (s.tookXPin.logXPin (.setDirectionIn xp) .ok).xpinSilent with
        | true => simp [exec, execSetint, hb, hx, xpinCall, hr, hy] at he
        | false =>
          have hsame : (s.tookXPin.logXPin (.setDirectionIn xp) .ok).xpinReply = s.tookXPin.xpinReply := rfl
          cases hr2 : s.tookXPin.xpinReply with
          | fail =>
            simp [exec, execSetint, hb, hx, xpinCall, hr, hy, setintFinish, hsame, hr2] at he
            exact .inr (.inr (.inl ⟨rfl, rfl, rfl, he.symm⟩))
          | ok =>
            simp [exec, execSetint, hb, hx, xpinCall, hr, hy, setintFinish, hsame, hr2] at he
            exact .inr (.inr (.inr ⟨rfl, rfl, rfl, he.symm⟩))

/-- The ways CLOSE answers a next state. -/
theorem close_cases {s t : State} (he : exec .close s = .next t) :
    (s.block.intBound = false ∧ t = s.respond .ok 0x00) ∨
    (s.block.intBound = true ∧ s.xpinReply = .ok ∧
      t = (s.tookXPin.logXPin (.release s.block.intPin) .ok).unbindInt.respond .ok 0x00) ∨
    (s.block.intBound = true ∧ s.xpinReply = .fail ∧
      t = (s.tookXPin.logXPin (.release s.block.intPin) .fail).raise .xpinError) := by
  cases hb : s.block.intBound with
  | false => simp [exec, execClose, hb] at he; exact .inl ⟨rfl, he.symm⟩
  | true =>
    cases hx : s.xpinSilent with
    | true => simp [exec, execClose, hb, hx] at he
    | false =>
      cases hr : s.xpinReply with
      | ok => simp [exec, execClose, hb, hx, closeBound, xpinCall, hr] at he; exact .inr (.inl ⟨rfl, rfl, he.symm⟩)
      | fail => simp [exec, execClose, hb, hx, closeBound, xpinCall, hr] at he; exact .inr (.inr ⟨rfl, rfl, he.symm⟩)

theorem exec_bus (i : Instr) (s t : State) (h : exec i s = .next t) : BusEffect s t := by
  cases i
  case setint xp hh =>
    rcases setint_cases h with ⟨-, rfl⟩ | ⟨-, -, rfl⟩ | ⟨-, -, -, rfl⟩ | ⟨-, -, -, rfl⟩ <;> exact busEffect_none rfl rfl rfl
  case close =>
    rcases close_cases h with ⟨-, rfl⟩ | ⟨-, -, rfl⟩ | ⟨-, -, rfl⟩ <;> exact busEffect_none rfl rfl rfl
  case pstop i => cases h; refine busEffect_none ?_ rfl ?_ <;> (simp only [respond_block, State.clearWatch]; split <;> rfl)
  case unreg i => cases h; refine busEffect_none ?_ rfl ?_ <;> (simp only [respond_block, State.clearWatch]; split <;> rfl)
  case reg i => cases h; exact busEffect_none rfl rfl rfl
  case ppull => cases h; exact busEffect_none rfl rfl rfl
  case disp b =>
    cases h
    simp only [startDisp, settleDisp]
    split <;> cases s.turn <;> exact busEffect_none rfl rfl rfl
  all_goals obtain ⟨-, rfl⟩ := guardBus_eq_next h
  case rdin => exact readCommand_bus _ _
  case rdout => exact readCommand_bus _ _
  case rdcfg => exact readCommand_bus _ _
  case rdpol => exact readCommand_bus _ _
  case ppulse i l => exact drainPoll_bus _ _ _ _
  case pread i =>
    rcases deviceRead_cases .inp s with ⟨b, -, h⟩ | ⟨e, -, h⟩ <;> simp only [preadCommand, h]
    · exact ⟨rfl, .inr <| .inl ⟨_, b, rfl, rfl⟩⟩
    · exact ⟨rfl, .inr <| .inr <| .inl ⟨_, e, rfl, rfl⟩⟩
  case pwatch i k hh =>
    rcases deviceWrite_cases .cfg (mergeBit (s.x .cfg) i true) s with h | ⟨e, h⟩ <;> simp only [watchCommand, h]
    · exact ⟨rfl, .inr <| .inr <| .inr <| .inl ⟨.cfg, _, by simp, rfl, rfl⟩⟩
    · exact ⟨rfl, .inr <| .inr <| .inr <| .inr ⟨.cfg, _, e, by simp, rfl, rfl⟩⟩
  all_goals exact writeCommand_bus _ _ _ (by simp)

theorem poll_bus (p : Port) (s t : State) (h : poll p s = .next t) : BusEffect s t := by
  unfold poll at h
  cases hp : s.block.pulse p with
  | idle => simp only [hp] at h; cases h; exact busEffect_none rfl rfl rfl
  | drain i l => simp only [hp] at h; obtain ⟨-, rfl⟩ := guardBus_eq_next h; exact drainPoll_bus _ _ _ _
  | waitStart i l =>
    simp only [hp] at h; obtain ⟨-, rfl⟩ := guardBus_eq_next h
    rcases deviceRead_cases .inp s with ⟨b, -, h⟩ | ⟨e, -, h⟩ <;> simp only [startPoll, h]
    · split
      · refine ⟨?_, .inr <| .inl ⟨.inp, b, ?_, ?_⟩⟩ <;> cases p <;> rfl
      · exact ⟨rfl, .inr <| .inl ⟨.inp, b, rfl, rfl⟩⟩
    · refine ⟨?_, .inr <| .inr <| .inl ⟨.inp, e, ?_, ?_⟩⟩ <;> cases p <;> rfl
  | timing i l t0 =>
    simp only [hp] at h
    split at h
    · cases h
    rcases deviceRead_cases .inp s with ⟨b, -, h'⟩ | ⟨e, -, h'⟩ <;> simp only [timingPoll, h'] at h
    · split at h
      · cases h; exact ⟨rfl, .inr <| .inl ⟨.inp, b, rfl, rfl⟩⟩
      · split at h
        · cases h
        · cases h
          refine ⟨?_, .inr <| .inl ⟨.inp, b, ?_, ?_⟩⟩ <;> cases p <;> rfl
    · cases h
      refine ⟨?_, .inr <| .inr <| .inl ⟨.inp, e, ?_, ?_⟩⟩ <;> cases p <;> rfl

theorem settleDisp_bus (p f rest) (s : State) : BusEffect s (settleDisp p f rest s) := by
  unfold settleDisp; split <;> cases p <;> exact busEffect_none rfl rfl rfl
theorem settleSvc_bus (f) (s : State) : BusEffect s (settleSvc f s) := by
  unfold settleSvc; split <;> exact busEffect_none rfl rfl rfl

theorem advanceHandlers_bus (p k) (s : State) : BusEffect s (advanceHandlers p k s) := by
  have hd : ∀ k f rest, BusEffect s (advanceDisp p k f rest s) := by
    intro k f rest; unfold advanceDisp; split <;> cases p <;> exact busEffect_none rfl rfl rfl
  unfold advanceHandlers
  split
  · split
    · exact hd _ _ _
    · exact busEffect_none rfl rfl rfl
  · exact busEffect_none rfl rfl rfl
  · unfold advanceService; split
    · exact busEffect_none rfl rfl rfl
    · split
      · unfold advanceSvc; split <;> exact busEffect_none rfl rfl rfl
      · exact busEffect_none rfl rfl rfl
    · exact busEffect_none rfl rfl rfl
    · exact busEffect_none rfl rfl rfl
    · exact busEffect_none rfl rfl rfl

theorem handlerReturn_bus (p) (s : State) : BusEffect s (handlerReturn p s) := by
  unfold handlerReturn
  split
  · exact settleDisp_bus _ _ _ _
  · exact settleSvc_bus _ _
  · exact settleSvc_bus _ _
  · exact busEffect_none rfl rfl rfl

theorem BusEffect.ofSame {s u t : State} (h : SameButEnv s u) (h' : BusEffect u t) : BusEffect s t := by
  unfold BusEffect at *; rw [h.block, h.hist] at h'; exact h'

theorem step_bus (s t : State) (h : step s = .next t) : BusEffect s t := by
  rcases step_cases h with ⟨p, w, ms, i, -, -, -, he⟩ | ⟨p, w, ms, -, -, -, rfl⟩ | ⟨ms, -, -, -, rfl⟩ | ⟨ms, -, -, -, -, rfl⟩ | ⟨p, u, hu, -, hp⟩ | ⟨p, k, u, hu, -, rfl⟩ | ⟨p, ms, -, -, rfl⟩ | rfl
  · exact (exec_bus _ _ _ he : BusEffect ((s.withMoves ms).onPort p) t)
  · exact busEffect_none rfl rfl rfl
  · exact busEffect_none rfl rfl rfl
  · rcases deviceRead_cases .inp (s.withMoves ms) with ⟨b, -, h⟩ | ⟨e, -, h⟩ <;> simp only [serviceEntry, h]
    · exact ⟨rfl, .inr <| .inl ⟨.inp, b, rfl, rfl⟩⟩
    · exact ⟨rfl, .inr <| .inr <| .inl ⟨.inp, e, rfl, rfl⟩⟩
  · exact BusEffect.ofSame hu (poll_bus _ _ _ hp)
  · exact BusEffect.ofSame hu (advanceHandlers_bus _ _ _)
  · exact BusEffect.ofSame (sameButEnv_withMoves s ms) (handlerReturn_bus _ _)
  · exact busEffect_none rfl rfl rfl

end Sys2Proof.Machine
end

