-- ==== Sys2Proof/Laws/Encoding.lean ====
section
/-! SUPPORT. The command word and its four fields determine one another, and masking a word masks its fields. -/

namespace Sys2Proof

@[simp] theorem fieldOp_assemble (op : BitVec 5) (idx : BitVec 3) (tok : Tok) (dat : Byte) :
    fieldOp (assembleWord op idx tok dat) = op := by
  apply BitVec.eq_of_getLsbD_eq
  intro i hi
  interval_cases i <;> simp [fieldOp, assembleWord]

@[simp] theorem fieldIdx_assemble (op : BitVec 5) (idx : BitVec 3) (tok : Tok) (dat : Byte) :
    fieldIdx (assembleWord op idx tok dat) = idx := by
  apply BitVec.eq_of_getLsbD_eq
  intro i hi
  interval_cases i <;> simp [fieldIdx, assembleWord]

@[simp] theorem fieldTok_assemble (op : BitVec 5) (idx : BitVec 3) (tok : Tok) (dat : Byte) :
    fieldTok (assembleWord op idx tok dat) = tok := by
  apply BitVec.eq_of_getLsbD_eq
  intro i hi
  interval_cases i <;> simp [fieldTok, assembleWord]

@[simp] theorem fieldDat_assemble (op : BitVec 5) (idx : BitVec 3) (tok : Tok) (dat : Byte) :
    fieldDat (assembleWord op idx tok dat) = dat := by
  apply BitVec.eq_of_getLsbD_eq
  intro i hi
  interval_cases i <;> simp [fieldDat, assembleWord]

theorem assembleWord_fields (w : CmdWord) : assembleWord (fieldOp w) (fieldIdx w) (fieldTok w) (fieldDat w) = w := by
  apply BitVec.eq_of_getLsbD_eq
  intro i hi
  interval_cases i <;> simp [assembleWord, fieldOp, fieldIdx, fieldTok, fieldDat]

/-- Masking a word masks its fields. -/
theorem and_assemble (op op' : BitVec 5) (idx idx' : BitVec 3) (tok tok' : Tok) (dat dat' : Byte) :
    assembleWord op idx tok dat &&& assembleWord op' idx' tok' dat' =
      assembleWord (op &&& op') (idx &&& idx') (tok &&& tok') (dat &&& dat') := by
  apply BitVec.eq_of_getLsbD_eq
  intro i hi
  interval_cases i <;> simp [assembleWord]

/-- Two words are equal exactly when their fields are. -/
theorem assemble_inj {op op' : BitVec 5} {idx idx' : BitVec 3} {tok tok' : Tok} {dat dat' : Byte} :
    assembleWord op idx tok dat = assembleWord op' idx' tok' dat' ↔
      op = op' ∧ idx = idx' ∧ tok = tok' ∧ dat = dat' := by
  constructor
  · intro h
    have h1 := congrArg fieldOp h
    have h2 := congrArg fieldIdx h
    have h3 := congrArg fieldTok h
    have h4 := congrArg fieldDat h
    simp only [fieldOp_assemble, fieldIdx_assemble, fieldTok_assemble, fieldDat_assemble] at h1 h2 h3 h4
    exact ⟨h1, h2, h3, h4⟩
  · rintro ⟨rfl, rfl, rfl, rfl⟩; rfl

@[simp] theorem fieldOfPin_pinOfField (b : BitVec 3) : fieldOfPin (pinOfField b) = b := rfl

@[simp] theorem pinOfField_fieldOfPin (i : PinIdx) : pinOfField (fieldOfPin i) = i := rfl

/-! ### One-bit and edge operands (R83) -/

@[simp] theorem Direction.ofBit_bit (d : Direction) : Direction.ofBit d.bit = d := by cases d <;> rfl
@[simp] theorem Direction.bit_ofBit (b : Bool) : (Direction.ofBit b).bit = b := by cases b <;> rfl
@[simp] theorem Level.ofBit_bit (l : Level) : Level.ofBit l.bit = l := by cases l <;> rfl
@[simp] theorem Level.bit_ofBit (b : Bool) : (Level.ofBit b).bit = b := by cases b <;> rfl
@[simp] theorem Pull.ofBit_bit (k : Pull) : Pull.ofBit k.bit = k := by cases k <;> rfl
@[simp] theorem Pull.bit_ofBit (b : Bool) : (Pull.ofBit b).bit = b := by cases b <;> rfl
@[simp] theorem datOfBit_bit (b : Bool) : (datOfBit b)[0] = b := by cases b <;> rfl
@[simp] theorem datOfBit_rest (b : Bool) : (datOfBit b).extractLsb' 1 7 = 0 := by cases b <;> rfl

/-- A byte with nothing above bit 0 is a one-bit operand. -/
theorem datOfBit_of_rest (b : Byte) (h : b.extractLsb' 1 7 = 0) : datOfBit b[0] = b := by revert b; decide

@[simp] theorem EdgeKind.ofDat_dat (e : EdgeKind) : EdgeKind.ofDat e.dat = some e := by cases e <;> rfl

theorem EdgeKind.dat_of_ofDat {b : Byte} {e : EdgeKind} (h : EdgeKind.ofDat b = some e) : e.dat = b := by
  unfold EdgeKind.ofDat at h
  split_ifs at h <;> injection h with h <;> subst h <;> simp_all [EdgeKind.dat]

/-- The three bytes of R80 carry the word. -/
theorem wordOfBytes_bytes (w : CmdWord) :
    wordOfBytes (w.extractLsb' 16 8) (w.extractLsb' 8 8) (w.extractLsb' 0 8) = w := by
  apply BitVec.eq_of_getLsbD_eq
  intro i hi
  interval_cases i <;> simp [wordOfBytes]

/-- A row covers a word when its fields, masked, are the row's. -/
theorem OpRow.covers_assemble (r : OpRow) (op : BitVec 5) (idx : BitVec 3) (tok : Tok) (dat : Byte) :
    r.covers (assembleWord op idx tok dat) = true ↔
      op &&& fieldOp r.mask = fieldOp r.pattern ∧ idx &&& fieldIdx r.mask = fieldIdx r.pattern ∧
        tok &&& fieldTok r.mask = fieldTok r.pattern ∧ dat &&& fieldDat r.mask = fieldDat r.pattern := by
  unfold OpRow.covers
  rw [beq_iff_eq]
  conv_lhs => rw [← assembleWord_fields r.mask, ← assembleWord_fields r.pattern, and_assemble, assemble_inj]

end Sys2Proof
end

