-- ==== Sys2Proof/Laws/Fanout.lean ====
section
/-! SUPPORT. The order of a dispatch (`Fanout.Ok`) through its four changes. -/

namespace Sys2Proof.Machine

/-- A dispatch starts in order. -/
theorem startFanout_ok (b : Byte) (s : State) : (startFanout b s).Ok := by
  constructor
  · simpa [startFanout] using selectPairs_nodup _ _
  · rintro ⟨i, h⟩ hq; exact (mem_selectPairs.mp hq).2
  · intro i hi; cases hi
  · intro q hq; cases hq

/-- Invoking what `pick` answers keeps the order, and the dispatch is not over. -/
theorem Fanout.Ok.invoke {m w k} {f : Fanout} {q} (hf : f.Ok) (hq : f.pick m w k = some q) :
    (f.invoke q).Ok ∧ (f.invoke q).over m = false := by
  rcases pick_cases (m := m) (w := w) (k := k) (f := f) with ⟨q', h1, h2⟩ | ⟨h1, -⟩
  swap
  · rw [h1] at hq; cases hq
  rw [h1] at hq; cases hq
  obtain ⟨hn, hb⟩ := candidate_fresh hf.once hf.owedSet h2
  have h3 := List.nodup_append.mp hf.once
  refine ⟨⟨?_, ?_, ?_, ?_⟩, ?_⟩
  · simp only [Fanout.invoke]
    rw [List.nodup_append]
    refine ⟨(h3.1).sublist (List.filter_sublist.map _), List.nodup_cons.mpr ⟨hn, h3.2.1⟩, ?_⟩
    intro a ha b hb'
    obtain ⟨r, hr, rfl⟩ := List.mem_map.mp ha
    obtain ⟨hr1, hr2⟩ := List.mem_filter.mp hr
    rcases List.mem_cons.mp hb' with rfl | hb'
    · simpa using hr2
    · exact h3.2.2 _ (List.mem_map_of_mem hr1) _ hb'
  · intro r hr; exact hf.owedSet r (List.mem_filter.mp hr).1
  · intro i hi
    rcases List.mem_cons.mp hi with rfl | hi
    · exact hb
    · exact hf.ranSet i hi
  · intro r hr; cases hr; rfl
  · cases m <;> simp [Fanout.over, Fanout.invoke]

/-- A handler's return keeps the order. -/
theorem Fanout.Ok.returned {f : Fanout} (hf : f.Ok) : f.returned.Ok := ⟨hf.once, hf.owedSet, hf.ranSet, fun q hq => by cases hq⟩

/-- Noting a removal keeps the order. -/
theorem Fanout.Ok.noteRemoved {f : Fanout} {i} (hf : f.Ok) : (f.noteRemoved i).Ok := ⟨hf.once, hf.owedSet, hf.ranSet, hf.ranLast⟩

end Sys2Proof.Machine
end

