-- ==== Sys2Proof/Laws/PerInstr.lean ====
section
/-! SUPPORT. Families of statements made per instruction (LAWS.json). -/

namespace Sys2Proof.Laws

/-- Every command's word is covered by a row of the opcode map with the command's mnemonic (30_encoding.md R84). -/
def EncodeLegal.Statement (i : Instr) : Prop := ∃ r ∈ opTable, r.mnemonic = i.mnemonic ∧ r.covers (encode i) = true

/-- The masked fields of a word with zero in its unused fields. -/
theorem encodeLegal_of_row {i : Instr} (r : OpRow) (hr : r ∈ opTable) (hm : r.mnemonic = i.mnemonic)
    (op : BitVec 5) (idx : BitVec 3) (tok : Tok) (dat : Byte) (he : encode i = assembleWord op idx tok dat)
    (h : op &&& fieldOp r.mask = fieldOp r.pattern ∧ idx &&& fieldIdx r.mask = fieldIdx r.pattern ∧
      tok &&& fieldTok r.mask = fieldTok r.pattern ∧ dat &&& fieldDat r.mask = fieldDat r.pattern) :
    EncodeLegal.Statement i :=
  ⟨r, hr, hm, by rw [he]; exact (r.covers_assemble op idx tok dat).mpr h⟩

/-- A field under a zero mask is zero. -/
theorem and_open_mask {n : Nat} (b m : BitVec n) (hm : m = 0#n) : b &&& m = 0#n := by
  subst hm; exact BitVec.and_zero

theorem EncodeLegal.wrcfg (b : Byte) : EncodeLegal.Statement (.wrcfg b) :=
  encodeLegal_of_row ⟨"WRCFG", 0x080000, 0xFFFF00⟩ (by decide) rfl _ _ _ _ rfl
    ⟨by decide, by decide, by decide, and_open_mask _ _ (by decide)⟩

theorem EncodeLegal.wrpol (b : Byte) : EncodeLegal.Statement (.wrpol b) :=
  encodeLegal_of_row ⟨"WRPOL", 0x100000, 0xFFFF00⟩ (by decide) rfl _ _ _ _ rfl
    ⟨by decide, by decide, by decide, and_open_mask _ _ (by decide)⟩

theorem EncodeLegal.wrout (b : Byte) : EncodeLegal.Statement (.wrout b) :=
  encodeLegal_of_row ⟨"WROUT", 0x180000, 0xFFFF00⟩ (by decide) rfl _ _ _ _ rfl
    ⟨by decide, by decide, by decide, and_open_mask _ _ (by decide)⟩

theorem EncodeLegal.rdin : EncodeLegal.Statement .rdin :=
  encodeLegal_of_row ⟨"RDIN", 0x200000, 0xFFFFFF⟩ (by decide) rfl _ _ _ _ rfl
    ⟨by decide, by decide, by decide, by decide⟩

theorem EncodeLegal.rdout : EncodeLegal.Statement .rdout :=
  encodeLegal_of_row ⟨"RDOUT", 0x280000, 0xFFFFFF⟩ (by decide) rfl _ _ _ _ rfl
    ⟨by decide, by decide, by decide, by decide⟩

theorem EncodeLegal.rdcfg : EncodeLegal.Statement .rdcfg :=
  encodeLegal_of_row ⟨"RDCFG", 0x300000, 0xFFFFFF⟩ (by decide) rfl _ _ _ _ rfl
    ⟨by decide, by decide, by decide, by decide⟩

theorem EncodeLegal.rdpol : EncodeLegal.Statement .rdpol :=
  encodeLegal_of_row ⟨"RDPOL", 0x380000, 0xFFFFFF⟩ (by decide) rfl _ _ _ _ rfl
    ⟨by decide, by decide, by decide, by decide⟩

theorem EncodeLegal.setint (xp h : Tok) : EncodeLegal.Statement (.setint xp h) :=
  encodeLegal_of_row ⟨"SETINT", 0x400000, 0xFF0000⟩ (by decide) rfl _ _ _ _ rfl
    ⟨by decide, by decide, and_open_mask _ _ (by decide), and_open_mask _ _ (by decide)⟩

theorem EncodeLegal.close : EncodeLegal.Statement .close :=
  encodeLegal_of_row ⟨"CLOSE", 0x480000, 0xFFFFFF⟩ (by decide) rfl _ _ _ _ rfl
    ⟨by decide, by decide, by decide, by decide⟩

theorem EncodeLegal.pdir (i : PinIdx) (d : Direction) : EncodeLegal.Statement (.pdir i d) :=
  encodeLegal_of_row ⟨"PDIR", 0x500000, 0xF8FFFE⟩ (by decide) rfl _ _ _ _ rfl
    ⟨by decide, and_open_mask _ _ (by decide), by decide, by cases d <;> decide⟩

theorem EncodeLegal.pactlow (i : PinIdx) (a : Bool) : EncodeLegal.Statement (.pactlow i a) :=
  encodeLegal_of_row ⟨"PACTLOW", 0x580000, 0xF8FFFE⟩ (by decide) rfl _ _ _ _ rfl
    ⟨by decide, and_open_mask _ _ (by decide), by decide, by cases a <;> decide⟩

theorem EncodeLegal.pwrite (i : PinIdx) (l : Level) : EncodeLegal.Statement (.pwrite i l) :=
  encodeLegal_of_row ⟨"PWRITE", 0x600000, 0xF8FFFE⟩ (by decide) rfl _ _ _ _ rfl
    ⟨by decide, and_open_mask _ _ (by decide), by decide, by cases l <;> decide⟩

theorem EncodeLegal.pread (i : PinIdx) : EncodeLegal.Statement (.pread i) :=
  encodeLegal_of_row ⟨"PREAD", 0x680000, 0xF8FFFF⟩ (by decide) rfl _ _ _ _ rfl
    ⟨by decide, and_open_mask _ _ (by decide), by decide, by decide⟩

theorem EncodeLegal.pwatch (i : PinIdx) (e : EdgeKind) (h : Tok) : EncodeLegal.Statement (.pwatch i e h) := by
  cases e
  · exact encodeLegal_of_row ⟨"PWATCH", 0x700000, 0xF800FF⟩ (by decide) rfl _ _ _ _ rfl
      ⟨by decide, and_open_mask _ _ (by decide), and_open_mask _ _ (by decide), by decide⟩
  · exact encodeLegal_of_row ⟨"PWATCH", 0x700001, 0xF800FF⟩ (by decide) rfl _ _ _ _ rfl
      ⟨by decide, and_open_mask _ _ (by decide), and_open_mask _ _ (by decide), by decide⟩
  · exact encodeLegal_of_row ⟨"PWATCH", 0x700002, 0xF800FF⟩ (by decide) rfl _ _ _ _ rfl
      ⟨by decide, and_open_mask _ _ (by decide), and_open_mask _ _ (by decide), by decide⟩

theorem EncodeLegal.pstop (i : PinIdx) : EncodeLegal.Statement (.pstop i) :=
  encodeLegal_of_row ⟨"PSTOP", 0x780000, 0xF8FFFF⟩ (by decide) rfl _ _ _ _ rfl
    ⟨by decide, and_open_mask _ _ (by decide), by decide, by decide⟩

theorem EncodeLegal.ppulse (i : PinIdx) (l : Level) : EncodeLegal.Statement (.ppulse i l) :=
  encodeLegal_of_row ⟨"PPULSE", 0x800000, 0xF8FFFE⟩ (by decide) rfl _ _ _ _ rfl
    ⟨by decide, and_open_mask _ _ (by decide), by decide, by cases l <;> decide⟩

theorem EncodeLegal.ppull (i : PinIdx) (k : Pull) : EncodeLegal.Statement (.ppull i k) :=
  encodeLegal_of_row ⟨"PPULL", 0x880000, 0xF8FFFE⟩ (by decide) rfl _ _ _ _ rfl
    ⟨by decide, and_open_mask _ _ (by decide), by decide, by cases k <;> decide⟩

theorem EncodeLegal.reg (i : PinIdx) (h : Tok) : EncodeLegal.Statement (.reg i h) :=
  encodeLegal_of_row ⟨"REG", 0x900000, 0xF800FF⟩ (by decide) rfl _ _ _ _ rfl
    ⟨by decide, and_open_mask _ _ (by decide), and_open_mask _ _ (by decide), by decide⟩

theorem EncodeLegal.unreg (i : PinIdx) : EncodeLegal.Statement (.unreg i) :=
  encodeLegal_of_row ⟨"UNREG", 0x980000, 0xF8FFFF⟩ (by decide) rfl _ _ _ _ rfl
    ⟨by decide, and_open_mask _ _ (by decide), by decide, by decide⟩

theorem EncodeLegal.disp (b : Byte) : EncodeLegal.Statement (.disp b) :=
  encodeLegal_of_row ⟨"DISP", 0xA00000, 0xFFFF00⟩ (by decide) rfl _ _ _ _ rfl
    ⟨by decide, by decide, by decide, and_open_mask _ _ (by decide)⟩

end Sys2Proof.Laws
end

