-- ==== Sys2Proof/Machine/Assembler.lean ====
section
/-! DEFINITION. The textual form of a command (30_encoding.md R94) and the assembler's pin names (R96). Text never
reaches the block: the machine sees words only. -/

namespace Sys2Proof.Machine

/-- A digit of a literal. -/
def digitOf (c : Char) : Option Nat :=
  if '0' ≤ c ∧ c ≤ '9' then some (c.toNat - '0'.toNat)
  else if 'a' ≤ c ∧ c ≤ 'f' then some (c.toNat - 'a'.toNat + 10)
  else if 'A' ≤ c ∧ c ≤ 'F' then some (c.toNat - 'A'.toNat + 10)
  else none

/-- The digits of a number in the given base, most significant first, read onto `acc`. -/
def digitsFrom (base acc : Nat) : List Char → Option Nat
  | [] => some acc
  | c :: cs =>
    match digitOf c with
    | some d => if d < base then digitsFrom base (acc * base + d) cs else none
    | none => none

/-- A literal (00_scope.md R9; R94 adds the decimal form): `0x..`, `0b..` or decimal, of at least one digit. -/
def literalOf : List Char → Option Nat
  | '0' :: 'x' :: c :: cs => digitsFrom 16 0 (c :: cs)
  | '0' :: 'b' :: c :: cs => digitsFrom 2 0 (c :: cs)
  | c :: cs => digitsFrom 10 0 (c :: cs)
  | [] => none

/-- A literal that fits a byte. -/
def byteOf (cs : List Char) : Option Byte :=
  match literalOf cs with
  | some n => if n < 256 then some (BitVec.ofNat 8 n) else none
  | none => none

/-- A data byte operand, `#b`. -/
def dataOperand : List Char → Option Byte
  | '#' :: cs => byteOf cs
  | _ => none

/-- A handler token operand, `h=t`. -/
def handlerOperand : List Char → Option Tok
  | 'h' :: '=' :: cs => byteOf cs
  | _ => none

/-- An external-pin token operand, `x=t`. -/
def xpinOperand : List Char → Option Tok
  | 'x' :: '=' :: cs => byteOf cs
  | _ => none

/-- A pin digit: `0` to `7`. -/
def pinDigit : List Char → Option PinIdx
  | ['0'] => some 0
  | ['1'] => some 1
  | ['2'] => some 2
  | ['3'] => some 3
  | ['4'] => some 4
  | ['5'] => some 5
  | ['6'] => some 6
  | ['7'] => some 7
  | _ => none

/-- R96: "for each `n` from 0 to 7, the two forms `GPIO_n` and `n`, both meaning index `n`"; any other name is an error. -/
def pinOperand : List Char → Option PinIdx
  | 'G' :: 'P' :: 'I' :: 'O' :: '_' :: cs => pinDigit cs
  | cs => pinDigit cs

/-- A two-valued operand word. -/
def wordOperand (zero one : String) (cs : List Char) : Option Bool :=
  if cs = zero.toList then some false else if cs = one.toList then some true else none

/-- The edge kind operand. -/
def edgeOperand (cs : List Char) : Option EdgeKind :=
  if cs = "none".toList then some .noEdge
  else if cs = "rising".toList then some .rising
  else if cs = "falling".toList then some .falling
  else none

/-- A space or a tab. -/
def isBlank (c : Char) : Bool := c == ' ' || c == '\t'

/-- Without the blanks at both ends. -/
def trimBlanks (cs : List Char) : List Char := ((cs.dropWhile isBlank).reverse.dropWhile isBlank).reverse

/-- The parts between the commas; `part` is the part being read, reversed. -/
def splitCommas (part : List Char) : List Char → List (List Char)
  | [] => [trimBlanks part.reverse]
  | ',' :: cs => trimBlanks part.reverse :: splitCommas [] cs
  | c :: cs => splitCommas (c :: part) cs

/-- The mnemonic and the operands of a line: a comment runs from `;` to the end (R94). -/
def partsOf (line : String) : List Char × List (List Char) :=
  let cs := trimBlanks (line.toList.takeWhile (· != ';'))
  let rest := cs.dropWhile fun c => !(isBlank c)
  (cs.takeWhile fun c => !(isBlank c), if (trimBlanks rest).isEmpty then [] else splitCommas [] rest)

/-- The command of a line (R94): the mnemonic of R84, then its operands separated by commas. -/
def assembleLine (line : String) : Option Instr :=
  let m := (partsOf line).1
  match (partsOf line).2 with
  | [] =>
    if m = "RDIN".toList then some .rdin
    else if m = "RDOUT".toList then some .rdout
    else if m = "RDCFG".toList then some .rdcfg
    else if m = "RDPOL".toList then some .rdpol
    else if m = "CLOSE".toList then some .close
    else none
  | [a] =>
    if m = "WRCFG".toList then (dataOperand a).map .wrcfg
    else if m = "WRPOL".toList then (dataOperand a).map .wrpol
    else if m = "WROUT".toList then (dataOperand a).map .wrout
    else if m = "DISP".toList then (dataOperand a).map .disp
    else if m = "PREAD".toList then (pinOperand a).map .pread
    else if m = "PSTOP".toList then (pinOperand a).map .pstop
    else if m = "UNREG".toList then (pinOperand a).map .unreg
    else none
  | [a, b] =>
    if m = "SETINT".toList then (xpinOperand a).bind fun xp => (handlerOperand b).map (.setint xp)
    else if m = "PDIR".toList then
      (pinOperand a).bind fun i => (wordOperand "out" "in" b).map fun v => .pdir i (Direction.ofBit v)
    else if m = "PACTLOW".toList then (pinOperand a).bind fun i => (wordOperand "off" "on" b).map (.pactlow i)
    else if m = "PWRITE".toList then
      (pinOperand a).bind fun i => (wordOperand "low" "high" b).map fun v => .pwrite i (Level.ofBit v)
    else if m = "PPULSE".toList then
      (pinOperand a).bind fun i => (wordOperand "low" "high" b).map fun v => .ppulse i (Level.ofBit v)
    else if m = "PPULL".toList then
      (pinOperand a).bind fun i => (wordOperand "down" "up" b).map fun v => .ppull i (Pull.ofBit v)
    else if m = "REG".toList then (pinOperand a).bind fun i => (handlerOperand b).map (.reg i)
    else none
  | [a, b, c] =>
    if m = "PWATCH".toList then
      (pinOperand a).bind fun i => (edgeOperand b).bind fun e => (handlerOperand c).map (.pwatch i e)
    else none
  | _ => none

end Sys2Proof.Machine
end

