-- ==== Sys2Proof/Tests/Slice0.lean ====
section
/-! SUPPORT. Tests. Expected words, bytes and histories are those of 95_test_vectors.md (the part is named at each test);
the `witness_` theorems show states and operands that meet the hypotheses of the obligations, clause by clause. -/

namespace Sys2Proof.Tests
open Sys2Proof Sys2Proof.Machine

/-! ### Helpers -/

/-- The outcome is a next state that passes the check. -/
def nextIs (o : Out) (f : State → Bool) : Bool :=
  match o with
  | .next t => f t
  | _ => false

/-- The start state of part 1 with these cache bytes (`IN`, `OUT`, `POL`, `CFG`) and these answers of the bus. -/
def start (inp out pol cfg : Byte) (bus : List BusReply) : State :=
  let s := State.resetAt 0x38 (fun _ => 0x00) .snapshot
  { s with block := { s.block with cache := ⟨inp, out, pol, cfg⟩ }, env := { s.env with bus := bus.map .reply } }

/-- With entries registered. -/
def watching (s : State) (l : List (PinIdx × Tok)) : State := l.foldl (fun u q => u.setWatch q.1 q.2) s

/-- With these answers of the external-pin capability. -/
def pins (s : State) (l : List XPinReply) : State := { s with env := { s.env with xpin := l.map .reply } }

/-- With this script of moves. -/
def script (s : State) (l : List Move) : State := { s with env := { s.env with moves := l } }

/-- With these readings of the time source. -/
def clock (s : State) (l : List Nat) : State := { s with env := { s.env with clock := l } }

/-- With PPULSE in this phase on port S. -/
def pulsing (s : State) (v : Pulse) : State := s.setPulse .portS v

/-- The port S response. -/
def rsp (w : RspWord) : List Response := [⟨.portS, w, none⟩]

/-! ### WellFormed: each way a word can be ill-formed (95 part 3.1, "Illegal words") -/

theorem test_reserved_op_refused :
    [0x000000, 0xA80000, 0xF80000, 0xFFFFFF].map legalWord = [false, false, false, false] := by decide

theorem test_format_Z_refuses_stray_bits :
    [0x200001, 0x480001, 0x210000, 0x200100].map legalWord = [false, false, false, false] := by decide

theorem test_format_D_refuses_stray_bits : [0x090000, 0xA00106].map legalWord = [false, false] := by decide

theorem test_format_B_refuses_idx : legalWord 0x418011 = false := by decide

theorem test_format_P_refuses_tok : legalWord 0x6B0100 = false := by decide

theorem test_format_PB_refuses_wide_dat : [0x530002, 0x8C0002].map legalWord = [false, false] := by decide

theorem test_format_PTE_refuses_edge_kind_3 : legalWord 0x712103 = false := by decide

theorem test_format_PT_refuses_dat : legalWord 0x912101 = false := by decide

/-- Beside each of these an accepted word: "Nearest legal word". -/
theorem test_nearest_legal_words :
    [0x080000, 0xA00000, 0x200000, 0x480000, 0xA00006, 0x408011, 0x6B0000, 0x530000, 0x8C0000, 0x712102, 0x912100].map
      legalWord = List.replicate 11 true := by decide

/-- The decoder refuses the same words. -/
theorem test_decoder_refuses :
    [0x000000, 0xA80000, 0xF80000, 0xFFFFFF, 0x200001, 0x480001, 0x090000, 0xA00106, 0x418011, 0x6B0100, 0x530002,
      0x8C0002, 0x712103, 0x912101].map decode = List.replicate 14 none := by decide

/-! ### Decoding: every constructor, from words written out bit by bit (95 part 3.1) -/

theorem test_decode_wrcfg : decode 0b00001_000_00000000_11111111 = some (.wrcfg 0xFF) := by decide
theorem test_decode_wrpol : decode 0b00010_000_00000000_00001111 = some (.wrpol 0x0F) := by decide
theorem test_decode_wrout : decode 0b00011_000_00000000_10100101 = some (.wrout 0xA5) := by decide
theorem test_decode_rdin : decode 0b00100_000_00000000_00000000 = some .rdin := by decide
theorem test_decode_rdout : decode 0b00101_000_00000000_00000000 = some .rdout := by decide
theorem test_decode_rdcfg : decode 0b00110_000_00000000_00000000 = some .rdcfg := by decide
theorem test_decode_rdpol : decode 0b00111_000_00000000_00000000 = some .rdpol := by decide
theorem test_decode_setint : decode 0b01000_000_10000000_00010001 = some (.setint 0x11 0x80) := by decide
theorem test_decode_close : decode 0b01001_000_00000000_00000000 = some .close := by decide
theorem test_decode_pdir : decode 0b01010_011_00000000_00000001 = some (.pdir 3 .input) ∧
    decode 0b01010_111_00000000_00000000 = some (.pdir 7 .output) := by decide
theorem test_decode_pactlow : decode 0b01011_010_00000000_00000001 = some (.pactlow 2 true) := by decide
theorem test_decode_pwrite : decode 0b01100_110_00000000_00000001 = some (.pwrite 6 .high) ∧
    decode 0b01100_111_00000000_00000000 = some (.pwrite 7 .low) := by decide
theorem test_decode_pread : decode 0b01101_011_00000000_00000000 = some (.pread 3) := by decide
theorem test_decode_pwatch : decode 0b01110_100_00100100_00000000 = some (.pwatch 4 .noEdge 0x24) ∧
    decode 0b01110_010_00100010_00000001 = some (.pwatch 2 .rising 0x22) ∧
    decode 0b01110_001_00100001_00000010 = some (.pwatch 1 .falling 0x21) := by decide
theorem test_decode_pstop : decode 0b01111_001_00000000_00000000 = some (.pstop 1) := by decide
theorem test_decode_ppulse : decode 0b10000_010_00000000_00000001 = some (.ppulse 2 .high) := by decide
theorem test_decode_ppull : decode 0b10001_100_00000000_00000001 = some (.ppull 4 .up) ∧
    decode 0b10001_000_00000000_00000000 = some (.ppull 0 .down) := by decide
theorem test_decode_reg : decode 0b10010_001_00100001_00000000 = some (.reg 1 0x21) := by decide
theorem test_decode_unreg : decode 0b10011_010_00000000_00000000 = some (.unreg 2) := by decide
theorem test_decode_disp : decode 0b10100_000_00000000_00000110 = some (.disp 0x06) := by decide

/-- 95 part 3.1, the other way. -/
theorem test_encode : encode (.pwatch 1 .falling 0x21) = 0x712102 ∧ encode (.setint 0x11 0x80) = 0x408011 ∧
    encode (.pdir 7 .output) = 0x570000 ∧ encode (.ppull 4 .up) = 0x8C0001 := by decide

/-- 30 R80: high byte first. -/
theorem test_bytes : bytesOfWord 0x712102 = [0x71, 0x21, 0x02] ∧
    decodeBytes [0x71, 0x21, 0x02, 0xAA] = some (.pwatch 1 .falling 0x21, [0xAA]) ∧
    decodeTableWord 24 0x712102 = some (.pwatch 1 .falling 0x21) := by decide

/-- 30 R94, R96 (T9: `GPIO_3` and `3` are the same pin). -/
theorem test_assembler : assembleLine "PREAD GPIO_3" = some (.pread 3) ∧ assembleLine "PREAD 3" = some (.pread 3) ∧
    assembleLine "PREAD GPIO_8" = none ∧ assembleLine "WRCFG  #0x00  ; all pins output" = some (.wrcfg 0x00) ∧
    assembleLine "PWATCH GPIO_1, falling, h=0x21" = some (.pwatch 1 .falling 0x21) := by decide

theorem test_assembler_literals : assembleLine "WROUT #0b01000000" = some (.wrout 0x40) ∧
    assembleLine "WROUT #64" = some (.wrout 0x40) ∧ assembleLine "SETINT x=0x11, h=0x80" = some (.setint 0x11 0x80) := by
  decide

/-! ### Operands (T1; 95 parts 3.1, 3.3) -/

theorem test_masks : bitMask 3 = 0x08 ∧ clearMask 3 = 0xF7 ∧ bitMask 7 = 0x80 ∧ clearMask 7 = 0x7F := by decide

theorem test_merge : mergeBit 0x00 7 true = 0x80 ∧ mergeBit 0xFF 7 false = 0x7F ∧ mergeBit 0xFF 0 false = 0xFE ∧
    mergeBit 0xA5 3 true = 0xAD := by decide

theorem test_response_words : responseWord .ok 0x5A = 0x005A ∧ responseWord .errBus 0xEE = 0x10EE ∧
    responseWord .errConflict 0x00 = 0x2000 ∧ responseWord .errUnsupported 0x00 = 0x3000 ∧
    responseWord .errIllegal 0x00 = 0x5000 ∧ responseWord .errXPin 0x00 = 0x6000 := by decide

/-! ### The Register Cache commands (95 part 3.2) -/

theorem test_wrcfg : nextIs (exec (.wrcfg 0xFF) (start 0 0 0 0 [.ok 0])) (fun t =>
    t.block.cache == ⟨0, 0, 0, 0xFF⟩ && t.hist.bus == [.write 0x38 .cfg 0xFF .ok] && t.hist.responses == rsp 0x0000) =
    true := by decide

theorem test_wrpol : nextIs (exec (.wrpol 0x0F) (start 0 0 0 0 [.ok 0])) (fun t =>
    t.block.cache == ⟨0, 0, 0x0F, 0⟩ && t.hist.bus == [.write 0x38 .pol 0x0F .ok]) = true := by decide

theorem test_wrout : nextIs (exec (.wrout 0xA5) (start 0 0 0 0 [.ok 0])) (fun t =>
    t.block.cache == ⟨0, 0xA5, 0, 0⟩ && t.hist.bus == [.write 0x38 .out 0xA5 .ok]) = true := by decide

theorem test_wrout_fails : nextIs (exec (.wrout 0xF0) (start 0 0x0F 0 0 [.err 0xEE])) (fun t =>
    t.block.cache == ⟨0, 0x0F, 0, 0⟩ && t.hist.responses == rsp 0x10EE) = true := by decide

theorem test_rdin : nextIs (exec .rdin (start 0 0 0 0 [.ok 0x5A])) (fun t =>
    t.block.cache == ⟨0x5A, 0, 0, 0⟩ && t.hist.responses == rsp 0x005A) = true := by decide

/-- T7. -/
theorem test_rdin_fails : nextIs (exec .rdin (start 0x5A 0 0 0 [.err 0xEE])) (fun t =>
    t.block.cache == ⟨0x5A, 0, 0, 0⟩ && t.hist.responses == rsp 0x10EE) = true := by decide

theorem test_rdout_refreshes : nextIs (exec .rdout (start 0 0x01 0 0 [.ok 0x81])) (fun t =>
    t.block.cache == ⟨0, 0x81, 0, 0⟩ && t.hist.responses == rsp 0x0081) = true := by decide

theorem test_rdcfg : nextIs (exec .rdcfg (start 0 0 0 0x06 [.ok 0x06])) (fun t =>
    t.block.cache == ⟨0, 0, 0, 0x06⟩ && t.hist.bus == [.read 0x38 .cfg (.ok 0x06)]) = true := by decide

theorem test_rdpol_fails : nextIs (exec .rdpol (start 0 0 0 0 [.err 0xEE])) (fun t =>
    t.block.cache == ⟨0, 0, 0, 0⟩ && t.hist.bus == [.read 0x38 .pol (.err 0xEE)]) = true := by decide

/-! ### Binding (T4; 95 part 3.6) -/

theorem test_setint : nextIs (exec (.setint 0x11 0x80) (pins (start 0 0 0 0 []) [.ok, .ok])) (fun t =>
    t.block.intBound && t.block.intPin == 0x11 && t.block.intHandler == 0x80 && t.hist.responses == rsp 0x0000 &&
      t.hist.xpin == [(.setDirectionIn 0x11, .ok), (.watchFalling 0x11, .ok)]) = true := by decide

theorem test_setint_conflict : nextIs (exec (.setint 0x12 0x81) ((start 0 0 0 0 []).bindInt 0x11 0x80)) (fun t =>
    t.block.intPin == 0x11 && t.block.intHandler == 0x80 && t.hist.xpin == [] && t.hist.responses == rsp 0x2000) =
    true := by decide

theorem test_close : nextIs (exec .close (pins ((start 0 0 0 0x02 []).bindInt 0x11 0x80) [.ok])) (fun t =>
    !t.block.intBound && t.block.cache == ⟨0, 0, 0, 0x02⟩ && t.hist.xpin == [(.release 0x11, .ok)]) = true := by decide

theorem test_close_fails : nextIs (exec .close (pins ((start 0 0 0 0 []).bindInt 0x11 0x80) [.fail])) (fun t =>
    t.block.intBound && t.block.intPin == 0x11 && t.hist.responses == rsp 0x6000) = true := by decide

/-! ### The Digital Pin commands (95 part 3.3) -/

theorem test_pdir : nextIs (exec (.pdir 7 .output) (start 0 0 0 0xF0 [.ok 0])) (fun t =>
    t.block.cache == ⟨0, 0, 0, 0x70⟩ && t.hist.bus == [.write 0x38 .cfg 0x70 .ok]) = true := by decide

theorem test_pactlow : nextIs (exec (.pactlow 7 false) (start 0 0 0x84 0 [.ok 0])) (fun t =>
    t.block.cache == ⟨0, 0, 0x04, 0⟩ && t.hist.bus == [.write 0x38 .pol 0x04 .ok]) = true := by decide

theorem test_pwrite : nextIs (exec (.pwrite 1 .high) (start 0 0x01 0 0 [.ok 0])) (fun t =>
    t.block.cache == ⟨0, 0x03, 0, 0⟩ && t.hist.bus == [.write 0x38 .out 0x03 .ok]) = true := by decide

theorem test_pwrite_fails : nextIs (exec (.pwrite 4 .high) (start 0 0x0F 0 0 [.err 0xEE])) (fun t =>
    t.block.cache == ⟨0, 0x0F, 0, 0⟩ && t.hist.bus == [.write 0x38 .out 0x1F (.err 0xEE)]) = true := by decide

theorem test_pread_high : nextIs (exec (.pread 7) (start 0 0 0 0 [.ok 0x80])) (fun t =>
    t.block.cache == ⟨0x80, 0, 0, 0⟩ && t.hist.responses == rsp 0x0001) = true := by decide

theorem test_pread_low : nextIs (exec (.pread 2) (start 0 0 0 0 [.ok 0x08])) (fun t =>
    t.block.cache == ⟨0x08, 0, 0, 0⟩ && t.hist.responses == rsp 0x0000) = true := by decide

theorem test_pwatch : nextIs (exec (.pwatch 1 .falling 0x21) (start 0 0 0 0 [.ok 0])) (fun t =>
    t.block.cache == ⟨0, 0, 0, 0x02⟩ && t.block.watch.get 1 == some 0x21 && t.hist.bus == [.write 0x38 .cfg 0x02 .ok]) =
    true := by decide

theorem test_pwatch_fails : nextIs (exec (.pwatch 6 .noEdge 0x26) (start 0 0 0 0 [.err 0xEE])) (fun t =>
    t.block.cache == ⟨0, 0, 0, 0⟩ && t.block.watch.get 6 == none && t.hist.responses == rsp 0x10EE) = true := by decide

theorem test_pstop : nextIs (exec (.pstop 1) (watching (start 0 0 0 0x02 []) [(1, 0x21)])) (fun t =>
    t.block.cache == ⟨0, 0, 0, 0x02⟩ && t.block.watch.get 1 == none && t.hist.bus == []) = true := by decide

/-- 95 part 3.3, PPULSE row 1: the first read 0x04 stays in the drain phase. -/
theorem test_ppulse_drains : nextIs (exec (.ppulse 2 .high) (start 0 0 0 0 [.ok 0x04])) (fun t =>
    t.block.pulseS == .drain 2 .high && t.block.cache == ⟨0x04, 0, 0, 0⟩ && t.hist.responses == []) = true := by decide

/-- 95 part 3.3, PPULSE row 2: the last read 0xFB ends the timing; `dur` is the difference of the readings. -/
theorem test_ppulse_ends :
    nextIs (poll .portS (clock (pulsing (start 0 0 0 0 [.ok 0xFB]) (.timing 2 .high 10)) [17])) (fun t =>
    t.block.pulseS == .idle && t.block.cache == ⟨0xFB, 0, 0, 0⟩ && t.hist.responses == [⟨.portS, 0x0000, some 7⟩]) =
    true := by decide

theorem test_ppull : nextIs (exec (.ppull 4 .up) (start 0 0 0 0 [])) (fun t =>
    t.block == (start 0 0 0 0 []).block && t.hist.responses == rsp 0x3000) = true := by decide

/-! ### The Interrupt Dispatcher commands (T5, T6; 95 part 3.4) -/

theorem test_reg_overwrites : nextIs (exec (.reg 1 0x2A) (watching (start 0 0 0 0 []) [(1, 0x21)])) (fun t =>
    t.block.watch.get 1 == some 0x2A && t.hist.bus == []) = true := by decide

theorem test_unreg_absent : nextIs (exec (.unreg 5) (start 0 0 0 0 [])) (fun t =>
    t.block == (start 0 0 0 0 []).block && t.hist.responses == rsp 0x0000) = true := by decide

theorem test_disp : nextIs (exec (.disp 0x06) (watching (start 0 0 0 0 []) [(1, 0x21), (2, 0x22), (5, 0x25)])) (fun t =>
    t.block.dispS == [⟨0x06, [(1, 0x21), (2, 0x22)], none, [], []⟩] && t.hist.responses == []) = true := by decide

theorem test_disp_selects_nothing : nextIs (exec (.disp 0x06) (watching (start 0 0 0 0 []) [(0, 0x20), (5, 0x25)]))
    (fun t => t.block.dispS == [] && t.hist.events == [] && t.hist.responses == rsp 0x0000) = true := by decide

/-- T5: the second choice invokes pin 2 first. -/
theorem test_disp_invokes : nextIs (advance .portS 1 { start 0 0 0 0 [] with
      block := { (start 0 0 0 0 []).block with dispS := [⟨0x06, [(1, 0x21), (2, 0x22)], none, [], []⟩] } })
    (fun t => t.hist.events == [.pin 0x22 2] && t.block.dispS == [⟨0x06, [(1, 0x21)], some (2, 0x22), [2], []⟩]) =
    true := by decide

/-! ### The interrupt service (95 part 3.5) and the ports -/

theorem test_edge : nextIs (step (script (watching ((start 0 0 0 0x06 [.ok 0x26]).bindInt 0x11 0x80)
      [(1, 0x21), (2, 0x22), (5, 0x25)]) [.edge])) (fun t =>
    t.block.svc == .top 0x80 0x06 false && t.block.cache == ⟨0x26, 0, 0, 0x06⟩ &&
      t.hist.bus == [.read 0x38 .inp (.ok 0x26)]) = true := by decide

theorem test_edge_read_fails : nextIs (step (script ((start 0x5A 0 0 0x06 [.err 0xEE]).bindInt 0x11 0x80) [.edge]))
    (fun t => t.block.svc == .failed 0xEE && t.block.cache == ⟨0x5A, 0, 0, 0x06⟩ && t.hist.events == []) = true := by
  decide

theorem test_abort_reports : nextIs (advance .portA 0 ((start 0x5A 0 0 0x06 []).setSvc (.report 0xEE)))
    (fun t => t.block.svc == .idle && t.hist.events == [.asyncErr 0xEE]) = true := by decide

/-- 30 R86: the illegal word 0x712103 is answered 0x5000. -/
theorem test_illegal_word : nextIs (step (script (start 0 0 0 0 []) [.command .portS 0x712103])) (fun t =>
    t.block == (start 0 0 0 0 []).block && t.hist.bus == [] && t.hist.responses == rsp 0x5000) = true := by decide

/-- The host's placing of a word, from reset. -/
theorem test_place : nextIs (step (State.reset.withFetchWord 24 0x912100)) (fun t => t.block.watch.get 1 == some 0x21) =
    true := by decide

/-! ### Witnesses: states and operands that meet the hypotheses of the obligations -/

/-- A bus answer and a bus error, for every statement on one bus transaction. -/
theorem witness_RegisterWritesFollowTheWriteContract :
    (start 0 0 0 0 [.ok 0]).busSilent = false ∧ (start 0 0 0 0 [.ok 0]).busReply = .ok 0 ∧
    (start 0 0 0 0 [.err 0xEE]).busSilent = false ∧ (start 0 0 0 0 [.err 0xEE]).busReply = .err 0xEE := by decide

theorem witness_RegisterReadsFollowTheReadContract :
    (start 0 0 0 0 [.ok 0xFF]).busSilent = false ∧ (start 0 0 0 0 [.ok 0xFF]).busReply = .ok 0xFF ∧
    (start 0 0 0 0 [.err 0]).busSilent = false ∧ (start 0 0 0 0 [.err 0]).busReply = .err 0 := by decide

/-- Also the merges at both ends of the byte. -/
theorem witness_PinWritesMergeAgainstTheCache :
    (start 0 0xFF 0x80 0x01 [.ok 0]).busSilent = false ∧ (start 0 0xFF 0x80 0x01 [.ok 0]).busReply = .ok 0 ∧
    (start 0 0xFF 0x80 0x01 [.err 1]).busReply = .err 1 ∧
    (start 0 0xFF 0x80 0x01 [.ok 0]).x .out = 0xFF ∧ (start 0 0xFF 0x80 0x01 [.ok 0]).x .pol = 0x80 := by decide

theorem witness_PreadTestsAFreshInputByte :
    (start 0 0 0 0 [.ok 0x80]).busSilent = false ∧ (start 0 0 0 0 [.ok 0x80]).busReply = .ok 0x80 ∧
    (start 0xFF 0 0 0 [.err 0xEE]).busReply = .err 0xEE := by decide

theorem witness_PwatchForcesInputThenRegisters :
    (start 0 0 0 0 [.ok 0]).busSilent = false ∧ (start 0 0 0 0 [.ok 0]).busReply = .ok 0 ∧
    (start 0 0 0 0 [.err 0xEE]).busSilent = false ∧ (start 0 0 0 0 [.err 0xEE]).busReply = .err 0xEE := by decide

theorem witness_PwatchIsDirectionThenRegister :
    (start 0 0 0 0 [.ok 0]).busSilent = false ∧ (start 0 0 0 0 [.ok 0]).busReply = .ok 0 := by decide

theorem witness_PpulseStartsByDraining :
    (start 0 0 0 0 [.ok 0x04]).busSilent = false ∧ (start 0 0 0 0 [.ok 0x04]).busReply = .ok 0x04 ∧
    (start 0 0 0 0 [.err 0xEE]).busReply = .err 0xEE ∧ Port.portA ≠ (start 0 0 0 0 [.ok 0x04]).turn := by decide

theorem witness_SetintBindsAfterBothCalls :
    ((start 0 0 0 0 []).bindInt 0x11 0x80).block.intBound = true ∧
    (pins (start 0 0 0 0 []) [.fail]).block.intBound = false ∧ (pins (start 0 0 0 0 []) [.fail]).xpinSilent = false ∧
    (pins (start 0 0 0 0 []) [.fail]).xpinReply = .fail ∧
    (pins (start 0 0 0 0 []) [.ok, .fail]).xpinReply = .ok ∧
    (pins (start 0 0 0 0 []) [.ok, .fail]).tookXPin.xpinSilent = false ∧
    (pins (start 0 0 0 0 []) [.ok, .fail]).tookXPin.xpinReply = .fail ∧
    (pins (start 0 0 0 0 []) [.ok, .ok]).tookXPin.xpinSilent = false ∧
    (pins (start 0 0 0 0 []) [.ok, .ok]).tookXPin.xpinReply = .ok := by decide

theorem witness_CloseReleasesTheBinding :
    (start 0 0 0 0 []).block.intBound = false ∧
    (pins ((start 0 0 0 0 []).bindInt 0x11 0x80) [.ok]).block.intBound = true ∧
    (pins ((start 0 0 0 0 []).bindInt 0x11 0x80) [.ok]).xpinSilent = false ∧
    (pins ((start 0 0 0 0 []).bindInt 0x11 0x80) [.ok]).xpinReply = .ok ∧
    (pins ((start 0 0 0 0 []).bindInt 0x11 0x80) [.fail]).xpinSilent = false ∧
    (pins ((start 0 0 0 0 []).bindInt 0x11 0x80) [.fail]).xpinReply = .fail := by decide

theorem witness_EncodeDecodeRoundTrip : decode 0xA000FF = some (.disp 0xFF) := by decide

theorem witness_DecoderFollowsTheOpcodeMap :
    decode 0x77FF02 = some (.pwatch 7 .falling 0xFF) ∧ decode 0x77FF03 = none := by decide

/-- For the second clause; the clauses of the first at both ends of their ranges. -/
theorem witness_IllegalWordsAreAnsweredAndDoNothing :
    (script (start 0 0 0 0 []) [.command .portS 0x000000]).env.moves = .command .portS 0x000000 :: [] ∧
    (script (start 0 0 0 0 []) [.command .portS 0x000000]).mayCommand .portS = true ∧
    [0x07FFFF, 0xA80000, 0xFFFFFF, 0x080100, 0xA10000, 0x200001, 0x480100, 0x470000, 0x500002, 0x8F00FF, 0x680001, 0x9FFF00,
      0x700003, 0x77FFFF, 0x900001].map decode = List.replicate 15 none := by decide

/-- PPULSE's three phases: both ends of the drain. -/
theorem witness_PpulseCompletesAfterItsPolls :
    let s := script (clock (start 0 0 0 0 [.ok 0x04, .ok 0x00, .ok 0x00, .ok 0x04, .ok 0xFF, .ok 0xFB]) [3, 5])
      (.command .portS (encode (.ppulse 2 .high)) :: List.replicate 5 (.advance .portS 0))
    s.mayCommand .portS = true ∧ (∀ b ∈ [0x04#8], pinLevel b 2 = .high) ∧ pinLevel 0x00 2 ≠ .high ∧
    (∀ b ∈ [0x00#8], pinLevel b 2 ≠ .high) ∧ pinLevel 0x04 2 = .high ∧ (∀ b ∈ [0xFF#8], pinLevel b 2 = .high) ∧
    pinLevel 0xFB 2 ≠ .high ∧ 3 ≤ 5 ∧
    s.env.moves = .command .portS (encode (.ppulse 2 .high)) ::
      (List.replicate ([0x04#8].length + [0x00#8].length + [0xFF#8].length + 2) (.advance .portS 0) ++ []) ∧
    s.env.bus = ([0x04#8] ++ [0x00] ++ [0x00] ++ [0x04] ++ [0xFF] ++ [0xFB]).map (fun b => .reply (.ok b)) ++ [] ∧
    s.env.clock = 3 :: 5 :: [] := by decide

/-- One state for each phase. -/
theorem witness_PpulseHangsWhileThePinDoesNotMove :
    let s := fun v b => script (pulsing (start 0 0 0 0 [.ok b]) v) [.advance .portS 0]
    (s (.drain 2 .high) 0x04).block.pulse .portS = .drain 2 .high ∧ (∀ b ∈ [0x04#8], pinLevel b 2 = .high) ∧
    (s (.waitStart 2 .high) 0x00).block.pulse .portS = .waitStart 2 .high ∧ (∀ b ∈ [0x00#8], pinLevel b 2 ≠ .high) ∧
    (s (.timing 2 .high 9) 0x04).block.pulse .portS = .timing 2 .high 9 ∧
    (s (.drain 2 .high) 0x04).env.moves = List.replicate [0x04#8].length (.advance .portS 0) ++ [] ∧
    (s (.drain 2 .high) 0x04).env.bus = [0x04#8].map (fun b => .reply (.ok b)) ++ [] := by decide

/-- One state for each phase. -/
theorem witness_FailedPollEndsThePulse :
    let s := fun v => script (pulsing (start 0x04 0 0 0 [.err 0xEE]) v) [.advance .portS 0]
    (∀ v ∈ [Pulse.drain 2 .high, .waitStart 2 .high, .timing 2 .high 9], (s v).env.moves = .advance .portS 0 :: [] ∧
      (s v).block.pulse .portS ≠ .idle ∧ (s v).busSilent = false ∧ (s v).busReply = .err 0xEE) := by
  simp only [List.mem_cons, List.not_mem_nil, or_false, forall_eq_or_imp, forall_eq]
  decide

theorem witness_PpulseHoldsOnlyItsPort : Port.portA ≠ .portS ∧ Pulse.drain 0 .low ≠ .idle := by decide

/-- In snapshot mode with nothing and with something selected, and in live mode. -/
theorem witness_DispTakesTheSelectedEntries :
    (start 0 0 0 0 []).mode = .snapshot ∧ selectPairs (start 0 0 0 0 []).block.watch 0xFF = [] ∧
    selectPairs (watching (start 0 0 0 0 []) [(0, 0x20), (7, 0x27)]).block.watch 0x81 = [(0, 0x20), (7, 0x27)] ∧
    (State.resetAt 0x38 (fun _ => 0) .live).mode = .live ∧ Port.portA ≠ (start 0 0 0 0 []).turn := by decide

/-- With two handlers and with none. -/
theorem witness_DispInvokesEverySelectedHandlerOnce :
    let s := script (watching (start 0 0 0 0 []) [(1, 0x21), (2, 0x22)])
      (.command .portS (encode (.disp 0x06)) :: [.advance .portS 1, .ret .portS, .advance .portS 0, .ret .portS])
    let u := script (start 0 0 0 0 []) [.command .portS (encode (.disp 0x06))]
    s.mode = .snapshot ∧ s.mayCommand .portS = true ∧ [1, 0].length = (selectPairs s.block.watch 0x06).length ∧
    s.env.moves = .command .portS (encode (.disp 0x06)) ::
      ([1, 0].flatMap (fun k => [.advance .portS k, .ret .portS]) ++ []) ∧
    u.mode = .snapshot ∧ u.mayCommand .portS = true ∧ ([] : List Nat).length = (selectPairs u.block.watch 0x06).length := by
  decide

/-- Two handlers in the order opposite to the table's. -/
theorem witness_EveryFanoutOrderCanHappen :
    let s := watching (start 0 0 0 0 []) [(1, 0x21), (2, 0x22)]
    s.mode = .snapshot ∧ s.mayCommand .portS = true ∧
    [((2 : PinIdx), (0x22 : Tok)), (1, 0x21)].Perm (selectPairs s.block.watch 0x06) := by decide

theorem witness_TableChangesLeaveADispatchAlone :
    (start 0 0 0 0 [.ok 0]).mode = .snapshot ∧ (∃ t, exec (.reg 1 0x21) (start 0 0 0 0 [.ok 0]) = .next t) ∧
    (∃ t, exec (.unreg 1) (start 0 0 0 0 [.ok 0]) = .next t) ∧ (∃ t, exec (.pstop 1) (start 0 0 0 0 [.ok 0]) = .next t) ∧
    (∃ t, exec (.pwatch 1 .rising 0x21) (start 0 0 0 0 [.ok 0]) = .next t) :=
  ⟨rfl, ⟨_, rfl⟩, ⟨_, rfl⟩, ⟨_, rfl⟩, ⟨_, rfl⟩⟩

/-- A dispatch in order, with an entry owed, one invoked and one that may be missed. -/
theorem witness_LiveDispatchAllowsOldAndNew :
    (⟨0x07, [(1, 0x21)], some (2, 0x22), [2], [1]⟩ : Fanout).Ok ∧
    (watching (start 0 0 0 0 []) [(0, 0x20)]).block.watch.get 0 = some 0x20 ∧ (0x07#8).getLsbD (0 : PinIdx).val = true ∧
    (0 : PinIdx) ∉ ([2] : List PinIdx) :=
  ⟨⟨by decide, by rintro q h; simp at h; subst h; rfl, by decide, by rintro q h; cases h; rfl⟩, by decide, by decide, by decide⟩

theorem witness_EdgeReadsAndMasks :
    let s := script ((start 0 0 0 0x06 [.ok 0x26]).bindInt 0x11 0x80) [.edge]
    s.env.moves = .edge :: [] ∧ s.block.svc = .idle ∧ s.block.intBound = true ∧ s.busSilent = false ∧
      s.busReply = .ok 0x26 := by decide

theorem witness_ServiceInvokesTopThenEveryWatchedPin :
    let s := script (watching ((start 0 0 0 0x06 [.ok 0x26]).bindInt 0x11 0x80) [(1, 0x21), (2, 0x22), (5, 0x25)])
      [.edge, .advance .portA 0, .ret .portA, .advance .portA 1, .ret .portA, .advance .portA 0, .ret .portA]
    s.mode = .snapshot ∧ s.block.svc = .idle ∧ s.block.dispA = [] ∧ s.block.pulseA = .idle ∧ s.block.intBound = true ∧
    s.env.bus = .reply (.ok 0x26) :: [] ∧
    [1, 0].length = (selectPairs s.block.watch (0x26 &&& s.block.cache.cfg)).length ∧
    s.env.moves = .edge :: .advance .portA 0 :: .ret .portA ::
      ([1, 0].flatMap (fun k => [.advance .portA k, .ret .portA]) ++ []) := by decide

theorem witness_FailedInterruptReadAborts :
    let s := script ((start 0x5A 0 0 0x06 [.err 0xEE]).bindInt 0x11 0x80)
      [.edge, .advance .portA 0, .advance .portA 0]
    s.env.moves = .edge :: .advance .portA 0 :: .advance .portA 0 :: [] ∧ s.block.svc = .idle ∧ s.block.dispA = [] ∧ s.block.pulseA = .idle ∧
    s.block.intBound = true ∧ s.busSilent = false ∧ s.busReply = .err 0xEE := by decide

theorem witness_EdgeWhileUnboundIsDiscarded :
    let s := script (start 0 0 0 0 []) [.edge]
    s.env.moves = .edge :: [] ∧ s.block.svc = .idle ∧ s.block.intBound = false := by decide

/-- One state for each of the six moves. -/
theorem witness_AssumedNeverMovesStop :
    let s := start 0 0 0 0 [.ok 0x00]
    (script (pulsing s (.drain 0 .low)) [.command .portS 0x200000]).block.pulse .portS ≠ .idle ∧
    (s.setDisp .portS [⟨0x02, [(1, 0x21)], none, [], []⟩]).block.disp .portS = ⟨0x02, [(1, 0x21)], none, [], []⟩ :: [] ∧
    (s.block.pulseA = .idle ∧ s.block.dispA = [] ∧ s.block.svc.handlerRunning = false) ∧
    s.handlerRunning .portS = false ∧ s.handlerRunning .portA = false ∧ (s.setSvc (.report 0xEE)).block.svc ≠ .idle ∧
    ((clock (pulsing s (.timing 2 .high 10)) [9]).block.pulse .portS = .timing 2 .high 10 ∧ s.busSilent = false ∧
      s.busReply = .ok 0x00 ∧ pinLevel 0x00 2 ≠ .high ∧ 9 < 10) := by decide

/-- A silent bus and a silent capability. -/
theorem witness_UnansweredCallsHang :
    let s := start 0 0 0 0 []
    ({ s with env := { s.env with bus := [.silent] } } : State).busSilent = true ∧
    ({ s with env := { s.env with xpin := [.silent] } } : State).xpinSilent = true ∧ s.block.intBound = false ∧
    (s.bindInt 0x11 0x80).block.intBound = true ∧
    ({ s with env := { s.env with xpin := [.reply .ok, .silent] } } : State).xpinSilent = false ∧
    ({ s with env := { s.env with xpin := [.reply .ok, .silent] } } : State).xpinReply = .ok ∧
    ({ s with env := { s.env with xpin := [.reply .ok, .silent] } } : State).tookXPin.xpinSilent = true := by decide

/-- A state no reset gives: a cache that follows a written and a read byte. -/
theorem witness_EveryStepKeepsTheCacheInvariant :
    let s := { start 0 0 0 0xF4 [.ok 0x26] with
      hist := { Hist.empty with bus := [.write 0x38 .cfg 0xF4 .ok, .read 0x38 .out (.err 0xEE)] },
      env := { Env.empty with moves := [.command .portS 0x200000] } }
    s.CacheTracksBus (fun _ => 0x00) ∧ ∃ t, step s = .next t := by
  refine ⟨fun r => ?_, ⟨_, rfl⟩⟩
  cases r <;> decide

theorem witness_EveryStepKeepsTheBusDiscipline :
    let s := { start 0 0 0 0xF4 [.ok 0x26] with
      hist := { Hist.empty with bus := [.write 0x38 .cfg 0xF4 .ok] },
      env := { Env.empty with moves := [.command .portS 0x200000] } }
    s.BusDisciplined ∧ ∃ t, step s = .next t := by
  refine ⟨fun t ht => ?_, ⟨_, rfl⟩⟩
  simp only [List.mem_singleton] at ht
  subst ht
  decide

/-- A command of port A's handler: the premise is met with every sequence busy. -/
theorem witness_EveryStepKeepsTheSequencing :
    let s := script { start 0 0 0 0 [] with
      block := { (start 0 0 0 0 []).block with
        svc := .fanout ⟨0x02, [], some (1, 0x21), [1], []⟩
        dispS := [⟨0x0C, [(2, 0x22)], some (3, 0x23), [3], []⟩]
        pulseS := .drain 0 .low } } [.command .portA 0x912100]
    s.Sequenced ∧ ∃ t, step s = .next t := by
  refine ⟨⟨fun h => ?_, fun p f rest h => ?_, fun p f rest hp h => ?_, fun p f h => ?_, fun f h => ?_⟩, ⟨_, rfl⟩⟩
  · exact absurd h (by decide)
  · cases p
    · cases h; rintro g ⟨⟩
    · cases h
  · cases p
    · cases h; rfl
    · cases h
  · cases p
    · rcases List.mem_singleton.mp h with rfl
      exact ⟨⟨by decide, by rintro q h; simp at h; subst h; rfl, by decide, by rintro q h; cases h; rfl⟩, rfl⟩
    · cases h
  · cases h
    exact ⟨⟨by decide, (by rintro q h; cases h), by decide, (by rintro q h; cases h; rfl)⟩, rfl⟩

/-- The flag set before, and set by the step. -/
theorem witness_AsyncFaultIsStickyAndHasOneCause :
    (∃ t, step (start 0 0 0 0 []).setAsyncFault = .next t) ∧ (start 0 0 0 0 []).setAsyncFault.block.asyncFault = true ∧
    (∃ t, step (script ((start 0 0 0 0 []).setSvc (.failed 0xEE)) [.advance .portA 0]) = .next t ∧
      t.block.asyncFault = true) ∧ ((start 0 0 0 0 []).setSvc (.failed 0xEE)).block.asyncFault = false ∧
    (∃ t, step (script ((start 0 0 0 0 [.err 0xEE]).bindInt 0x11 0x80) [.edge]) = .next t ∧
      t.block.svc = .failed 0xEE) :=
  ⟨⟨_, rfl⟩, rfl, ⟨_, rfl, rfl⟩, rfl, ⟨_, rfl, rfl⟩⟩

theorem witness_OnlySetintAndCloseChangeTheBinding :
    (∃ t, step (script (pins (start 0 0 0 0 []) [.ok, .ok]) [.command .portS 0x408011]) = .next t ∧
      t.block.intBound ≠ (start 0 0 0 0 []).block.intBound ∧ t.block.intPin ≠ (start 0 0 0 0 []).block.intPin) ∧
    (∃ t, step (script (pins ((start 0 0 0 0 []).bindInt 0x11 0x80) [.ok]) [.command .portS 0x480000]) = .next t ∧
      t.block.intBound ≠ true) :=
  ⟨⟨_, rfl, by decide, by decide⟩, ⟨_, rfl, by decide⟩⟩

theorem witness_CommandsMakeTheirTransactions : ∃ t, exec .rdin (start 0 0 0 0 [.ok 0]) = .next t := ⟨_, rfl⟩

/-- An error, the conflict, and PPULL. -/
theorem witness_CommandsEndWithTheirErrors :
    (∃ t, exec .rdin (start 0 0 0 0 [.err 0xEE]) = .next t) ∧
    (∃ t, exec (.setint 0x12 0x81) ((start 0 0 0 0 []).bindInt 0x11 0x80) = .next t) ∧
    (∃ t, exec (.ppull 0 .down) (start 0 0 0 0 []) = .next t) := ⟨⟨_, rfl⟩, ⟨_, rfl⟩, ⟨_, rfl⟩⟩

theorem witness_FailedCommandsLeaveTheRecord :
    (start 0 0 0 0 [.err 0xEE]).block.pulse (start 0 0 0 0 [.err 0xEE]).turn = .idle ∧
    (∃ t, exec (.ppulse 2 .high) (start 0 0 0 0 [.err 0xEE]) = .next t ∧
      t.hist.responses = (start 0 0 0 0 [.err 0xEE]).hist.responses ++ [⟨.portS, responseWord .errBus 0xEE, none⟩]) ∧
    Status.errBus ≠ .ok := ⟨rfl, ⟨_, rfl, rfl⟩, by decide⟩

theorem witness_UnboundTokensAreMeaningless : (start 0 0 0 0 []).block.intBound = false := rfl

/-- Port S on pin 6, port A on pin 7 (95 part 3.7). -/
theorem witness_PinWritesFromTwoPortsLoseNoBit :
    ∃ t u, (6 : PinIdx) ≠ 7 ∧ (start 0 0 0 0 [.ok 0, .ok 0]).busReply = .ok 0 ∧
      exec (.pwrite 6 .high) ((start 0 0 0 0 [.ok 0, .ok 0]).onPort .portS) = .next t ∧ t.busReply = .ok 0 ∧
      exec (.pwrite 7 .high) (t.onPort .portA) = .next u ∧ u.x .out = 0xC0 :=
  ⟨_, _, by decide, rfl, rfl, rfl, rfl, by decide⟩

/-- T3. -/
theorem witness_DirectionReadsBack :
    ∃ t u, (start 0 0 0 0xF0 [.ok 0, .ok 0xF4]).busReply = .ok 0 ∧
      exec (.pdir 2 .input) (start 0 0 0 0xF0 [.ok 0, .ok 0xF4]) = .next t ∧ t.busReply = .ok (t.x .cfg) ∧
      exec .rdcfg t = .next u := ⟨_, _, rfl, rfl, by decide, rfl⟩

theorem witness_CacheAgreesWithAnEchoBus :
    let s := script { start 0 0 0 0xF4 [.ok 0xF4] with hist := { Hist.empty with bus := [.write 0x38 .cfg 0xF4 .ok] } }
      [.command .portS 0x300000]
    s.CacheTracksBus (fun _ => 0x00) ∧ ∃ t, step s = .next t ∧
      echoAfter ⟨0, 0, 0, 0xF0⟩ t.hist.bus = some ⟨0, 0, 0, 0xF4⟩ ∧ lastByte .cfg t.hist.bus ≠ none := by
  refine ⟨fun r => ?_, ⟨_, rfl, by decide, by decide⟩⟩
  cases r <;> decide

theorem witness_OverIsAtRest : (start 0 0 0 0 []).over := ⟨⟨rfl, rfl, rfl, rfl, rfl, by decide⟩, rfl⟩

/-- 70 R263: an edge event not yet served or discarded, here after a CLOSE, is not quiescence. -/
theorem test_edge_to_discard_is_not_quiescent : ¬ (script (start 0 0 0 0 []) [.edge]).quiescent :=
  fun h => h.edges (by decide)

theorem witness_StepRunsTheDecodedCommand :
    let s := script (start 0 0 0 0 [.ok 0]) [.command .portS 0x080000]
    s.env.moves = .command .portS 0x080000 :: [] ∧ s.mayCommand .portS = true ∧ decode 0x080000 = some (.wrcfg 0x00) := by
  decide

end Sys2Proof.Tests
end

section
/-! PROOFS. The masks of a pin (00_scope.md R10): `clearMask` is the complement of `bitMask`, so the two part the byte. -/

namespace Sys2Proof.Machine

/-- The `& 0xFF` of R10 changes nothing on a byte: `0xFF` is every bit of it. -/
theorem clearMask_eq_not (i : PinIdx) : clearMask i = ~~~(bitMask i) :=
  BitVec.and_allOnes

theorem bitMask_or_clearMask (i : PinIdx) : bitMask i ||| clearMask i = 0xFF := by
  rw [clearMask_eq_not, BitVec.or_not_self]
  rfl

theorem bitMask_and_clearMask (i : PinIdx) : bitMask i &&& clearMask i = 0x00 := by
  rw [clearMask_eq_not, BitVec.and_not_self]

/-- Settles O8: the formulas are the definitions, the partition is by complement, and the two tables are evaluated. -/
theorem masksSelectOnePin : Obligations.MasksSelectOnePin := by
  unfold Obligations.MasksSelectOnePin
  refine ⟨fun i => ⟨rfl, rfl, ?_, ?_⟩, ?_, ?_⟩
  · exact bitMask_or_clearMask i
  · exact bitMask_and_clearMask i
  · decide
  · decide

end Sys2Proof.Machine
end

section
/-! PROOFS. The record after construction (10_state.md R36), and the invariants of every step that speak of the bus
history: the cache follows the last successful transaction (R24), and every transaction is at the strap (R25, R34). -/

namespace Sys2Proof.Machine

/-! ### Reset -/

/-- Settles O37: each part of the record is the value that construction wrote there. -/
theorem resetLeavesTheStatedValues : Obligations.ResetLeavesTheStatedValues := by
  unfold Obligations.ResetLeavesTheStatedValues
  refine ⟨fun a c m => ⟨rfl, fun r => ?_, rfl, fun i => ?_, rfl, ⟨rfl, rfl, rfl, rfl, rfl, ?_⟩, rfl⟩, fun r => ?_, rfl⟩
  · cases r <;> rfl
  · simp [State.resetAt, Block.resetAt, Vector.get_eq_getElem]
  · exact List.not_mem_nil
  · cases r <;> rfl

theorem resetAt_cacheTracksBus (a : BusAddr) (c : Reg → Byte) (m : DispatchMode) :
    (State.resetAt a c m).CacheTracksBus c := by
  intro r
  cases r <;> rfl

theorem resetAt_busDisciplined (a : BusAddr) (c : Reg → Byte) (m : DispatchMode) :
    (State.resetAt a c m).BusDisciplined := fun _ ht => nomatch ht

theorem resetAt_disp (a : BusAddr) (c : Reg → Byte) (m : DispatchMode) (p : Port) :
    (State.resetAt a c m).block.disp p = [] := by
  cases p <;> rfl

/-- Nothing is in progress after construction, so there is nothing to nest. -/
theorem resetAt_sequenced (a : BusAddr) (c : Reg → Byte) (m : DispatchMode) : (State.resetAt a c m).Sequenced where
  portAQuiet _ := ⟨rfl, rfl⟩
  outerRunning p _ _ hd := by simp [resetAt_disp] at hd
  pulseUnder p _ _ _ hd := by simp [resetAt_disp] at hd
  dispOk p _ hf := by simp [resetAt_disp] at hf
  svcOk _ hf := nomatch hf

/-- Settles O38, one invariant at a time. -/
theorem invariantsHoldAtReset : Obligations.InvariantsHoldAtReset :=
  fun a c m => ⟨resetAt_cacheTracksBus a c m, resetAt_busDisciplined a c m, resetAt_sequenced a c m⟩

/-! ### The cache invariant (R24) -/

/-- A transaction that moved a byte on the register is now the last that did; any other leaves the last as it was. -/
theorem lastByte_concat (r : Reg) (l : List BusTxn) (x : BusTxn) :
    lastByte r (l ++ [x]) = (x.movedByte r).or (lastByte r l) := by
  unfold lastByte
  cases h : x.movedByte r <;> simp [h]

/-- A transaction that moved no byte keeps the invariant where the cache stays. -/
theorem cacheTracksBus_of_unmoved {c : Reg → Byte} {s t : State} {x : BusTxn} (h : s.CacheTracksBus c)
    (hx : ∀ r, x.movedByte r = none) (hbus : t.hist.bus = s.hist.bus ++ [x]) (hcache : t.block.cache = s.block.cache) :
    t.CacheTracksBus c := by
  intro r
  rw [hbus, lastByte_concat, hx, Option.none_or, State.x, hcache]
  exact h r

/-- A transaction that moved a byte on one register keeps the invariant where the cache takes that byte. -/
theorem cacheTracksBus_of_moved {c : Reg → Byte} {s t : State} {x : BusTxn} {q : Reg} {b : Byte} (h : s.CacheTracksBus c)
    (hx : ∀ r, x.movedByte r = if q = r then some b else none) (hbus : t.hist.bus = s.hist.bus ++ [x])
    (hcache : t.block.cache = s.block.cache.set q b) : t.CacheTracksBus c := by
  intro r
  rw [hbus, lastByte_concat, hx, State.x, hcache, Cache.get_set]
  by_cases hr : q = r
  · simp [hr]
  · simp only [if_neg hr, if_neg (Ne.symm hr), Option.none_or]
    exact h r

theorem BusEffect.cacheTracksBus {c : Reg → Byte} {s t : State} (he : BusEffect s t) (h : s.CacheTracksBus c) :
    t.CacheTracksBus c := by
  obtain ⟨-, ⟨hb, hc⟩ | ⟨r, b, hb, hc⟩ | ⟨r, e, hb, hc⟩ | ⟨r, b, -, hb, hc⟩ | ⟨r, b, e, -, hb, hc⟩⟩ := he
  · intro r
    rw [hb, State.x, hc]
    exact h r
  · exact cacheTracksBus_of_moved h (fun _ => rfl) hb hc
  · exact cacheTracksBus_of_unmoved h (fun _ => rfl) hb hc
  · exact cacheTracksBus_of_moved h (fun _ => rfl) hb hc
  · exact cacheTracksBus_of_unmoved h (fun _ => rfl) hb hc

/-- Settles O39: a step makes at most one transaction, and the cache follows it (`step_bus`). -/
theorem everyStepKeepsTheCacheInvariant : Obligations.EveryStepKeepsTheCacheInvariant :=
  ⟨resetAt_cacheTracksBus, fun _ s t h hs => (step_bus s t hs).cacheTracksBus h⟩

/-! ### The bus discipline (R25, R34) -/

/-- One more transaction, at the strap and no write of the input register, keeps the discipline. -/
theorem busDisciplined_concat {s t : State} {x : BusTxn} (h : s.BusDisciplined)
    (haddr : t.block.address = s.block.address) (hbus : t.hist.bus = s.hist.bus ++ [x])
    (hx : x.address = s.block.address ∧ x.isWriteOf .inp = false) : t.BusDisciplined := by
  intro y hy
  rw [haddr]
  rcases List.mem_append.mp (hbus ▸ hy) with hy | hy
  · exact h y hy
  · rw [List.mem_singleton.mp hy]
    exact hx

theorem BusEffect.busDisciplined {s t : State} (he : BusEffect s t) (h : s.BusDisciplined) : t.BusDisciplined := by
  obtain ⟨ha, ⟨hb, -⟩ | ⟨r, b, hb, -⟩ | ⟨r, e, hb, -⟩ | ⟨r, b, hr, hb, -⟩ | ⟨r, b, e, hr, hb, -⟩⟩ := he
  · intro y hy
    rw [ha]
    exact h y (hb ▸ hy)
  · exact busDisciplined_concat h ha hb ⟨rfl, rfl⟩
  · exact busDisciplined_concat h ha hb ⟨rfl, rfl⟩
  · exact busDisciplined_concat h ha hb ⟨rfl, beq_false_of_ne hr⟩
  · exact busDisciplined_concat h ha hb ⟨rfl, beq_false_of_ne hr⟩

/-- Settles O40: a step makes at most one transaction, at the strap and never a write of the input register
(`step_bus`). -/
theorem everyStepKeepsTheBusDiscipline : Obligations.EveryStepKeepsTheBusDiscipline :=
  ⟨fun a c m => ⟨rfl, resetAt_busDisciplined a c m⟩,
    fun s t h hs => ⟨(step_bus s t hs).busDisciplined h, (step_bus s t hs).1⟩⟩

end Sys2Proof.Machine
end

section
/-! PROOFS. What nothing depends on (10_state.md R23, R26, R31, R33). Two states that agree but for what a claim lets
differ take agreeing steps: said once for every shared operation and every meaning, and used for each of the four claims. -/

namespace Sys2Proof.Machine

/-- The parts of the record that two compared states may hold differently. -/
structure Blind where
  /-- The cached input byte. -/
  inp    : Bool := false
  /-- The sticky flag. -/
  fault  : Bool := false
  /-- The tokens of the binding, while no pin is bound. -/
  tokens : Bool := false

/-- `s` and `s'` agree but for what `v` names, and their histories have grown alike from `h₀` and `h₁`. -/
structure AgreeBut (v : Blind) (h₀ h₁ : Hist) (s s' : State) : Prop where
  mode       : s'.mode = s.mode
  turn       : s'.turn = s.turn
  env        : s'.env = s.env
  address    : s'.block.address = s.block.address
  inp        : v.inp = false → s'.block.cache.inp = s.block.cache.inp
  out        : s'.block.cache.out = s.block.cache.out
  pol        : s'.block.cache.pol = s.block.cache.pol
  cfg        : s'.block.cache.cfg = s.block.cache.cfg
  intBound   : s'.block.intBound = s.block.intBound
  intPin     : v.tokens = false ∨ s.block.intBound = true → s'.block.intPin = s.block.intPin
  intHandler : v.tokens = false ∨ s.block.intBound = true → s'.block.intHandler = s.block.intHandler
  watch      : s'.block.watch = s.block.watch
  asyncFault : v.fault = false → s'.block.asyncFault = s.block.asyncFault
  pulseS     : s'.block.pulseS = s.block.pulseS
  pulseA     : s'.block.pulseA = s.block.pulseA
  svc        : s'.block.svc = s.block.svc
  dispS      : s'.block.dispS = s.block.dispS
  dispA      : s'.block.dispA = s.block.dispA
  hist       : ∃ d : Hist, s.hist = h₀.append d ∧ s'.hist = h₁.append d

/-- Outcomes of one kind: next states that agree, or the same stop. -/
inductive OutAgree (v : Blind) (h₀ h₁ : Hist) : Out → Out → Prop
  | next {t t' : State} (h : AgreeBut v h₀ h₁ t t') : OutAgree v h₀ h₁ (.next t) (.next t')
  | fault (r : Fault) : OutAgree v h₀ h₁ (.fault r) (.fault r)
  | refused (r : Refusal) : OutAgree v h₀ h₁ (.refused r) (.refused r)

namespace AgreeBut

variable {v : Blind} {h₀ h₁ : Hist} {s s' : State}

/-! ### What agreeing states read alike -/

theorem pulse (h : AgreeBut v h₀ h₁ s s') (p : Port) : s'.block.pulse p = s.block.pulse p := by
  cases p
  · exact h.pulseS
  · exact h.pulseA

theorem disp (h : AgreeBut v h₀ h₁ s s') (p : Port) : s'.block.disp p = s.block.disp p := by
  cases p
  · exact h.dispS
  · exact h.dispA

/-- No meaning reads the cached input byte, so the other three registers are enough. -/
theorem x (h : AgreeBut v h₀ h₁ s s') {r : Reg} (hr : r ≠ .inp) : s'.x r = s.x r := by
  cases r with
  | inp => exact absurd rfl hr
  | out => exact h.out
  | pol => exact h.pol
  | cfg => exact h.cfg

theorem busSilent (h : AgreeBut v h₀ h₁ s s') : s'.busSilent = s.busSilent := by simp only [State.busSilent, h.env]

theorem busReply (h : AgreeBut v h₀ h₁ s s') : s'.busReply = s.busReply := by simp only [State.busReply, h.env]

theorem xpinSilent (h : AgreeBut v h₀ h₁ s s') : s'.xpinSilent = s.xpinSilent := by simp only [State.xpinSilent, h.env]

theorem xpinReply (h : AgreeBut v h₀ h₁ s s') : s'.xpinReply = s.xpinReply := by simp only [State.xpinReply, h.env]

theorem startTime (h : AgreeBut v h₀ h₁ s s') : s'.startTime = s.startTime := by simp only [State.startTime, h.env]

theorem endTime (h : AgreeBut v h₀ h₁ s s') (t0 : Nat) : s'.endTime t0 = s.endTime t0 := by
  simp only [State.endTime, h.env]

theorem startFanout (h : AgreeBut v h₀ h₁ s s') (b : Byte) : startFanout b s' = startFanout b s := by
  simp only [Machine.startFanout, h.watch]

theorem handlerRunning (h : AgreeBut v h₀ h₁ s s') (p : Port) : s'.handlerRunning p = s.handlerRunning p := by
  simp only [State.handlerRunning, h.disp, h.svc]

theorem mayCommand (h : AgreeBut v h₀ h₁ s s') (p : Port) : s'.mayCommand p = s.mayCommand p := by
  simp only [State.mayCommand, h.pulse, h.handlerRunning, h.dispS]

theorem mayReturn (h : AgreeBut v h₀ h₁ s s') (p : Port) : s'.mayReturn p = s.mayReturn p := by
  simp only [State.mayReturn, h.pulse, h.handlerRunning]

theorem hasWork (h : AgreeBut v h₀ h₁ s s') (p : Port) : s'.hasWork p = s.hasWork p := by
  simp only [State.hasWork, h.pulse, h.disp, h.svc]

theorem nextPort (h : AgreeBut v h₀ h₁ s s') : s'.nextPort = s.nextPort := by
  simp only [State.nextPort, h.hasWork, h.env]

theorem outOfTurn (h : AgreeBut v h₀ h₁ s s') (p : Port) : outOfTurn p s' = outOfTurn p s := by
  simp only [Machine.outOfTurn, h.pulseA, h.dispA]

/-! ### Updates of the record -/

theorem setX (h : AgreeBut v h₀ h₁ s s') (r : Reg) (b : Byte) : AgreeBut v h₀ h₁ (s.setX r b) (s'.setX r b) := by
  cases r with
  | inp => exact { h with inp := fun _ => rfl }
  | out => exact { h with out := rfl }
  | pol => exact { h with pol := rfl }
  | cfg => exact { h with cfg := rfl }

theorem setPulse (h : AgreeBut v h₀ h₁ s s') (p : Port) (u : Pulse) :
    AgreeBut v h₀ h₁ (s.setPulse p u) (s'.setPulse p u) := by
  cases p with
  | portS => exact { h with pulseS := rfl }
  | portA => exact { h with pulseA := rfl }

theorem setDisp (h : AgreeBut v h₀ h₁ s s') (p : Port) (fs : List Fanout) :
    AgreeBut v h₀ h₁ (s.setDisp p fs) (s'.setDisp p fs) := by
  cases p with
  | portS => exact { h with dispS := rfl }
  | portA => exact { h with dispA := rfl }

theorem setSvc (h : AgreeBut v h₀ h₁ s s') (u : Svc) : AgreeBut v h₀ h₁ (s.setSvc u) (s'.setSvc u) :=
  { h with svc := rfl }

theorem bindInt (h : AgreeBut v h₀ h₁ s s') (xp t : Tok) : AgreeBut v h₀ h₁ (s.bindInt xp t) (s'.bindInt xp t) :=
  { h with intBound := rfl, intPin := fun _ => rfl, intHandler := fun _ => rfl }

/-- A binding released leaves tokens that agreed while it stood. -/
theorem unbindInt (h : AgreeBut v h₀ h₁ s s') : AgreeBut v h₀ h₁ s.unbindInt s'.unbindInt :=
  { h with
    intBound := rfl
    intPin := fun hv => h.intPin (hv.imp_right nofun)
    intHandler := fun hv => h.intHandler (hv.imp_right nofun) }

theorem setAsyncFault (h : AgreeBut v h₀ h₁ s s') : AgreeBut v h₀ h₁ s.setAsyncFault s'.setAsyncFault :=
  { h with asyncFault := fun _ => rfl }

theorem setWatch (h : AgreeBut v h₀ h₁ s s') (i : PinIdx) (t : Tok) :
    AgreeBut v h₀ h₁ (s.setWatch i t) (s'.setWatch i t) :=
  { h with watch := by simp only [setWatch_watch, h.watch] }

theorem clearWatch (h : AgreeBut v h₀ h₁ s s') (i : PinIdx) :
    AgreeBut v h₀ h₁ (s.clearWatch i) (s'.clearWatch i) := by
  have hw : s'.block.watch.set i none = s.block.watch.set i none := by rw [h.watch]
  simp only [State.clearWatch, h.mode]
  cases s.mode with
  | snapshot => exact { h with mode := rfl, watch := hw }
  | live =>
    exact { h with
      mode := rfl
      watch := hw
      svc := congrArg (Svc.noteRemoved i) h.svc
      dispS := congrArg (List.map (Fanout.noteRemoved i)) h.dispS
      dispA := congrArg (List.map (Fanout.noteRemoved i)) h.dispA }

/-! ### Inputs used up -/

theorem tookBus (h : AgreeBut v h₀ h₁ s s') : AgreeBut v h₀ h₁ s.tookBus s'.tookBus :=
  { h with env := by simp only [State.tookBus, h.env] }

theorem tookXPin (h : AgreeBut v h₀ h₁ s s') : AgreeBut v h₀ h₁ s.tookXPin s'.tookXPin :=
  { h with env := by simp only [State.tookXPin, h.env] }

theorem tookTime (h : AgreeBut v h₀ h₁ s s') : AgreeBut v h₀ h₁ s.tookTime s'.tookTime :=
  { h with env := by simp only [State.tookTime, h.env] }

theorem withMoves (h : AgreeBut v h₀ h₁ s s') (ms : List Move) : AgreeBut v h₀ h₁ (s.withMoves ms) (s'.withMoves ms) :=
  { h with env := by simp only [State.withMoves, h.env] }

theorem tookChoice (h : AgreeBut v h₀ h₁ s s') : AgreeBut v h₀ h₁ s.tookChoice s'.tookChoice :=
  { h with env := by simp only [State.tookChoice, h.env] }

theorem onPort (h : AgreeBut v h₀ h₁ s s') (p : Port) : AgreeBut v h₀ h₁ (s.onPort p) (s'.onPort p) :=
  { h with turn := rfl }

/-! ### Histories that grow -/

/-- What both histories gain alike after growing alike, they have gained alike. -/
theorem hist_grown (h : AgreeBut v h₀ h₁ s s') {k k' : Hist} (d : Hist) (hk : k = s.hist.append d)
    (hk' : k' = s'.hist.append d) : ∃ d : Hist, k = h₀.append d ∧ k' = h₁.append d := by
  obtain ⟨e, he, he'⟩ := h.hist
  exact ⟨e.append d, by rw [hk, he, hist_append_assoc], by rw [hk', he', hist_append_assoc]⟩

theorem logBus (h : AgreeBut v h₀ h₁ s s') (t : BusTxn) : AgreeBut v h₀ h₁ (s.logBus t) (s'.logBus t) :=
  { h with hist := h.hist_grown _ (logBus_append s t) (logBus_append s' t) }

theorem emit (h : AgreeBut v h₀ h₁ s s') (e : Event) : AgreeBut v h₀ h₁ (s.emit e) (s'.emit e) :=
  { h with hist := h.hist_grown _ (emit_append s e) (emit_append s' e) }

theorem logXPin (h : AgreeBut v h₀ h₁ s s') (c : XPinCall) (r : XPinReply) :
    AgreeBut v h₀ h₁ (s.logXPin c r) (s'.logXPin c r) :=
  { h with hist := h.hist_grown _ (logXPin_append s c r) (logXPin_append s' c r) }

theorem respondOn (h : AgreeBut v h₀ h₁ s s') (p : Port) (st : Status) (b : Byte) (d : Option Nat) :
    AgreeBut v h₀ h₁ (s.respondOn p st b d) (s'.respondOn p st b d) :=
  { h with hist := h.hist_grown _ (respondOn_append s p st b d) (respondOn_append s' p st b d) }

theorem respond (h : AgreeBut v h₀ h₁ s s') (st : Status) (b : Byte) :
    AgreeBut v h₀ h₁ (s.respond st b) (s'.respond st b) := by
  simp only [State.respond, h.turn]
  exact h.respondOn s.turn st b none

theorem raise (h : AgreeBut v h₀ h₁ s s') (r : Raise) : AgreeBut v h₀ h₁ (s.raise r) (s'.raise r) :=
  h.respond r.status r.value

theorem raiseOn (h : AgreeBut v h₀ h₁ s s') (p : Port) (r : Raise) :
    AgreeBut v h₀ h₁ (s.raiseOn p r) (s'.raiseOn p r) :=
  h.respondOn p r.status r.value none

/-! ### One bus transaction, one external-pin call -/

/-- Agreeing states read the same byte, or fail alike. -/
theorem deviceRead (h : AgreeBut v h₀ h₁ s s') (r : Reg) :
    ∃ y t t', deviceRead r s = (y, t) ∧ deviceRead r s' = (y, t') ∧ AgreeBut v h₀ h₁ t t' := by
  cases hr : s.busReply with
  | ok b =>
    refine ⟨_, _, _, deviceRead_ok hr, deviceRead_ok (h.busReply.trans hr), ?_⟩
    rw [h.address]
    exact (h.tookBus.logBus _).setX r b
  | err e =>
    refine ⟨_, _, _, deviceRead_err hr, deviceRead_err (h.busReply.trans hr), ?_⟩
    rw [h.address]
    exact h.tookBus.logBus _

/-- Agreeing states write alike, or fail alike. -/
theorem deviceWrite (h : AgreeBut v h₀ h₁ s s') (r : Reg) (b : Byte) :
    ∃ y t t', deviceWrite r b s = (y, t) ∧ deviceWrite r b s' = (y, t') ∧ AgreeBut v h₀ h₁ t t' := by
  cases hr : s.busReply with
  | ok c =>
    refine ⟨_, _, _, deviceWrite_ok hr, deviceWrite_ok (h.busReply.trans hr), ?_⟩
    rw [h.address]
    exact (h.tookBus.logBus _).setX r b
  | err e =>
    refine ⟨_, _, _, deviceWrite_err hr, deviceWrite_err (h.busReply.trans hr), ?_⟩
    rw [h.address]
    exact h.tookBus.logBus _

theorem xpinCall (h : AgreeBut v h₀ h₁ s s') (c : XPinCall) :
    ∃ y t t', xpinCall c s = (y, t) ∧ xpinCall c s' = (y, t') ∧ AgreeBut v h₀ h₁ t t' := by
  refine ⟨s.xpinReply, _, _, rfl, ?_, h.tookXPin.logXPin c s.xpinReply⟩
  simp only [Machine.xpinCall, h.xpinReply]

theorem guardBus (h : AgreeBut v h₀ h₁ s s') {t t' : State} (ht : AgreeBut v h₀ h₁ t t') :
    OutAgree v h₀ h₁ (guardBus s t) (guardBus s' t') := by
  cases hb : s.busSilent with
  | true => rw [guardBus_silent hb, guardBus_silent (h.busSilent.trans hb)]; exact .fault _
  | false => rw [guardBus_answered hb, guardBus_answered (h.busSilent.trans hb)]; exact .next ht

/-! ### The commands (40_register_cache.md, 41_digital_pin.md, 42_interrupt_dispatcher.md) -/

theorem writeCommand (h : AgreeBut v h₀ h₁ s s') (r : Reg) (b : Byte) :
    AgreeBut v h₀ h₁ (writeCommand r b s) (writeCommand r b s') := by
  obtain ⟨y, t, t', hs, hs', ht⟩ := h.deviceWrite r b
  simp only [Machine.writeCommand, hs, hs']
  cases y with
  | ok => exact ht.respond _ _
  | err e => exact ht.raise _

theorem readCommand (h : AgreeBut v h₀ h₁ s s') (r : Reg) :
    AgreeBut v h₀ h₁ (readCommand r s) (readCommand r s') := by
  obtain ⟨y, t, t', hs, hs', ht⟩ := h.deviceRead r
  simp only [Machine.readCommand, hs, hs']
  cases y with
  | ok b => exact ht.respond _ _
  | err e => exact ht.raise _

/-- A merge reads the cached register it writes, which is never the input register. -/
theorem mergeCommand (h : AgreeBut v h₀ h₁ s s') {r : Reg} (hr : r ≠ .inp) (i : PinIdx) (b : Bool) :
    AgreeBut v h₀ h₁ (mergeCommand r i b s) (mergeCommand r i b s') := by
  simp only [Machine.mergeCommand, h.x hr]
  exact h.writeCommand r _

theorem preadCommand (h : AgreeBut v h₀ h₁ s s') (i : PinIdx) :
    AgreeBut v h₀ h₁ (preadCommand i s) (preadCommand i s') := by
  obtain ⟨y, t, t', hs, hs', ht⟩ := h.deviceRead .inp
  simp only [Machine.preadCommand, hs, hs']
  cases y with
  | ok b => exact ht.respond _ _
  | err e => exact ht.raise _

theorem watchCommand (h : AgreeBut v h₀ h₁ s s') (i : PinIdx) (t : Tok) :
    AgreeBut v h₀ h₁ (watchCommand i t s) (watchCommand i t s') := by
  have hx : s'.x .cfg = s.x .cfg := h.x nofun
  obtain ⟨y, u, u', hs, hs', hu⟩ := h.deviceWrite .cfg (mergeBit (s.x .cfg) i true)
  simp only [Machine.watchCommand, hx, hs, hs']
  cases y with
  | ok => exact (hu.setWatch i t).respond _ _
  | err e => exact hu.raise _

theorem setintFinish (h : AgreeBut v h₀ h₁ s s') (xp t : Tok) (r : XPinReply) :
    AgreeBut v h₀ h₁ (setintFinish xp t r s) (setintFinish xp t r s') := by
  cases r with
  | fail => exact h.raise _
  | ok =>
    obtain ⟨y, u, u', hs, hs', hu⟩ := h.xpinCall (.watchFalling xp)
    simp only [Machine.setintFinish, hs, hs']
    cases y with
    | ok => exact (hu.bindInt xp t).respond _ _
    | fail => exact hu.raise _

theorem execSetint (h : AgreeBut v h₀ h₁ s s') (xp t : Tok) :
    OutAgree v h₀ h₁ (execSetint xp t s) (execSetint xp t s') := by
  obtain ⟨y, u, u', hs, hs', hu⟩ := h.xpinCall (.setDirectionIn xp)
  simp only [Machine.execSetint, h.intBound, h.xpinSilent, hs, hs', hu.xpinSilent]
  split
  · exact .next (h.raise _)
  · split
    · exact .fault _
    · split
      · exact .fault _
      · exact .next (hu.setintFinish xp t y)

/-- CLOSE names the bound pin only where one is bound. -/
theorem closeBound (h : AgreeBut v h₀ h₁ s s') (hb : s.block.intBound = true) :
    AgreeBut v h₀ h₁ (closeBound s) (closeBound s') := by
  obtain ⟨y, u, u', hs, hs', hu⟩ := h.xpinCall (.release s.block.intPin)
  simp only [Machine.closeBound, h.intPin (.inr hb), hs, hs']
  cases y with
  | ok => exact hu.unbindInt.respond _ _
  | fail => exact hu.raise _

theorem execClose (h : AgreeBut v h₀ h₁ s s') : OutAgree v h₀ h₁ (execClose s) (execClose s') := by
  simp only [Machine.execClose, h.intBound, h.xpinSilent]
  split
  · split
    · exact .fault _
    · exact .next (h.closeBound ‹_›)
  · exact .next (h.respond _ _)

/-! ### PPULSE's polls (41 R140) -/

theorem pollFailed (h : AgreeBut v h₀ h₁ s s') (p : Port) (e : Byte) :
    AgreeBut v h₀ h₁ (pollFailed p e s) (pollFailed p e s') :=
  (h.setPulse p .idle).raiseOn p _

theorem drainPoll (h : AgreeBut v h₀ h₁ s s') (p : Port) (i : PinIdx) (l : Level) :
    AgreeBut v h₀ h₁ (drainPoll p i l s) (drainPoll p i l s') := by
  obtain ⟨y, t, t', hs, hs', ht⟩ := h.deviceRead .inp
  simp only [Machine.drainPoll, hs, hs']
  cases y with
  | ok b => exact ht.setPulse p _
  | err e => exact ht.pollFailed p e

theorem startPoll (h : AgreeBut v h₀ h₁ s s') (p : Port) (i : PinIdx) (l : Level) :
    AgreeBut v h₀ h₁ (startPoll p i l s) (startPoll p i l s') := by
  obtain ⟨y, t, t', hs, hs', ht⟩ := h.deviceRead .inp
  cases y with
  | ok b =>
    simp only [Machine.startPoll, hs, hs', ht.startTime]
    split
    · exact ht.tookTime.setPulse p _
    · exact ht
  | err e =>
    simp only [Machine.startPoll, hs, hs']
    exact ht.pollFailed p e

theorem timingPoll (h : AgreeBut v h₀ h₁ s s') (p : Port) (i : PinIdx) (l : Level) (t0 : Nat) :
    OutAgree v h₀ h₁ (timingPoll p i l t0 s) (timingPoll p i l t0 s') := by
  obtain ⟨y, t, t', hs, hs', ht⟩ := h.deviceRead .inp
  cases y with
  | ok b =>
    simp only [Machine.timingPoll, hs, hs', ht.endTime]
    split
    · exact .next ht
    · split
      · exact .fault _
      · exact .next ((ht.tookTime.setPulse p .idle).respondOn p _ _ _)
  | err e =>
    simp only [Machine.timingPoll, hs, hs']
    exact .next (ht.pollFailed p e)

theorem poll (h : AgreeBut v h₀ h₁ s s') (p : Port) : OutAgree v h₀ h₁ (poll p s) (poll p s') := by
  simp only [Machine.poll, h.pulse, h.busSilent]
  cases s.block.pulse p with
  | idle => exact .next h
  | drain i l => exact h.guardBus (h.drainPoll p i l)
  | waitStart i l => exact h.guardBus (h.startPoll p i l)
  | timing i l t0 =>
    dsimp only
    split
    · exact .fault _
    · exact h.timingPoll p i l t0

/-! ### The fan-out (42 R162 to R165) -/

theorem endDisp (h : AgreeBut v h₀ h₁ s s') (p : Port) (rest : List Fanout) :
    AgreeBut v h₀ h₁ (endDisp p rest s) (endDisp p rest s') :=
  (h.setDisp p rest).respondOn p _ _ _

theorem settleDisp (h : AgreeBut v h₀ h₁ s s') (p : Port) (f : Fanout) (rest : List Fanout) :
    AgreeBut v h₀ h₁ (settleDisp p f rest s) (settleDisp p f rest s') := by
  simp only [Machine.settleDisp, h.mode]
  split
  · exact h.endDisp p rest
  · exact h.setDisp p _

theorem settleSvc (h : AgreeBut v h₀ h₁ s s') (f : Fanout) : AgreeBut v h₀ h₁ (settleSvc f s) (settleSvc f s') := by
  simp only [Machine.settleSvc, h.mode]
  split
  · exact h.setSvc _
  · exact h.setSvc _

theorem startDisp (h : AgreeBut v h₀ h₁ s s') (b : Byte) : AgreeBut v h₀ h₁ (startDisp b s) (startDisp b s') := by
  simp only [Machine.startDisp, h.turn, h.startFanout, h.disp]
  exact h.settleDisp s.turn _ _

theorem advanceDisp (h : AgreeBut v h₀ h₁ s s') (p : Port) (k : Nat) (f : Fanout) (rest : List Fanout) :
    AgreeBut v h₀ h₁ (advanceDisp p k f rest s) (advanceDisp p k f rest s') := by
  simp only [Machine.advanceDisp, h.mode, h.watch]
  split
  · exact (h.setDisp p _).emit _
  · exact h.endDisp p rest

theorem advanceSvc (h : AgreeBut v h₀ h₁ s s') (k : Nat) (f : Fanout) :
    AgreeBut v h₀ h₁ (advanceSvc k f s) (advanceSvc k f s') := by
  simp only [Machine.advanceSvc, h.mode, h.watch]
  split
  · exact (h.setSvc _).emit _
  · exact h.setSvc _

/-! ### The service sequence (60_exceptions.md R210, R211, R214) -/

/-- The top-level handler is latched only where a pin is bound. -/
theorem serviceEntry (h : AgreeBut v h₀ h₁ s s') (hb : s.block.intBound = true) :
    AgreeBut v h₀ h₁ (serviceEntry s) (serviceEntry s') := by
  obtain ⟨y, t, t', hs, hs', ht⟩ := h.deviceRead .inp
  have hx : t'.x .cfg = t.x .cfg := ht.x nofun
  cases y with
  | ok b =>
    simp only [Machine.serviceEntry, hs, hs', h.intHandler (.inr hb), hx]
    exact ht.setSvc _
  | err e =>
    simp only [Machine.serviceEntry, hs, hs']
    exact ht.setSvc _

theorem advanceService (h : AgreeBut v h₀ h₁ s s') (k : Nat) :
    AgreeBut v h₀ h₁ (advanceService k s) (advanceService k s') := by
  simp only [Machine.advanceService, h.svc]
  cases s.block.svc with
  | idle => exact h
  | top t m b =>
    cases b with
    | false => exact (h.setSvc _).emit _
    | true => exact h
  | fanout f =>
    dsimp only
    split
    · exact h.advanceSvc k f
    · exact h
  | failed e => exact h.setAsyncFault.setSvc _
  | report e => exact (h.setSvc _).emit _

theorem advanceHandlers (h : AgreeBut v h₀ h₁ s s') (p : Port) (k : Nat) :
    AgreeBut v h₀ h₁ (advanceHandlers p k s) (advanceHandlers p k s') := by
  simp only [Machine.advanceHandlers, h.disp]
  cases s.block.disp p with
  | cons f rest =>
    dsimp only
    split
    · exact h.advanceDisp p k f rest
    · exact h
  | nil =>
    cases p with
    | portS => exact h
    | portA => exact h.advanceService k

theorem handlerReturn (h : AgreeBut v h₀ h₁ s s') (p : Port) :
    AgreeBut v h₀ h₁ (handlerReturn p s) (handlerReturn p s') := by
  simp only [Machine.handlerReturn, h.disp, h.svc, h.startFanout]
  split
  · exact h.settleDisp _ _ _
  · exact h.settleSvc _
  · exact h.settleSvc _
  · exact h

/-! ### One command, one move, one step -/

/-- The first atomic step of every command, by the arms of `exec`. -/
theorem exec (h : AgreeBut v h₀ h₁ s s') (i : Instr) : OutAgree v h₀ h₁ (exec i s) (exec i s') := by
  cases i with
  | wrcfg b => exact h.guardBus (h.writeCommand .cfg b)
  | wrpol b => exact h.guardBus (h.writeCommand .pol b)
  | wrout b => exact h.guardBus (h.writeCommand .out b)
  | rdin => exact h.guardBus (h.readCommand .inp)
  | rdout => exact h.guardBus (h.readCommand .out)
  | rdcfg => exact h.guardBus (h.readCommand .cfg)
  | rdpol => exact h.guardBus (h.readCommand .pol)
  | setint xp t => exact h.execSetint xp t
  | close => exact h.execClose
  | pdir i d => exact h.guardBus (h.mergeCommand (r := .cfg) nofun i d.bit)
  | pactlow i a => exact h.guardBus (h.mergeCommand (r := .pol) nofun i a)
  | pwrite i l => exact h.guardBus (h.mergeCommand (r := .out) nofun i l.bit)
  | pread i => exact h.guardBus (h.preadCommand i)
  | pwatch i e t => exact h.guardBus (h.watchCommand i t)
  | pstop i => exact .next ((h.clearWatch i).respond _ _)
  | ppulse i l =>
    simp only [Machine.exec, execPpulse, h.turn]
    exact h.guardBus (h.drainPoll s.turn i l)
  | ppull i k => exact .next (h.raise _)
  | reg i t => exact .next ((h.setWatch i t).respond _ _)
  | unreg i => exact .next ((h.clearWatch i).respond _ _)
  | disp b => exact .next (h.startDisp b)

theorem issue (h : AgreeBut v h₀ h₁ s s') (p : Port) (w : CmdWord) :
    OutAgree v h₀ h₁ (issue Machine.exec p w s) (issue Machine.exec p w s') := by
  simp only [Machine.issue, h.mayCommand, h.outOfTurn]
  split
  · cases decode w with
    | some i => exact (h.onPort p).exec i
    | none => exact .next ((h.onPort p).raise _)
  · exact .fault _

theorem serveEdge (h : AgreeBut v h₀ h₁ s s') : OutAgree v h₀ h₁ (serveEdge s) (serveEdge s') := by
  simp only [Machine.serveEdge, h.svc, h.intBound]
  split
  · split
    · exact h.guardBus (h.serviceEntry ‹_›)
    · exact .next h
  · exact .fault _

theorem advance (h : AgreeBut v h₀ h₁ s s') (p : Port) (k : Nat) :
    OutAgree v h₀ h₁ (advance p k s) (advance p k s') := by
  simp only [Machine.advance, h.pulse]
  split
  · exact .next (h.advanceHandlers p k)
  · exact h.poll p

theorem runMove (h : AgreeBut v h₀ h₁ s s') (m : Move) :
    OutAgree v h₀ h₁ (runMove Machine.exec m s) (runMove Machine.exec m s') := by
  cases m with
  | command p w => exact h.issue p w
  | edge => exact h.serveEdge
  | advance p k => exact h.advance p k
  | ret p =>
    simp only [Machine.runMove, h.mayReturn]
    split
    · exact .next (h.handlerReturn p)
    · exact .fault _

/-- Agreeing states take agreeing steps. -/
theorem step (h : AgreeBut v h₀ h₁ s s') : OutAgree v h₀ h₁ (step s) (step s') := by
  simp only [Machine.step, stepWith, h.env, h.nextPort]
  cases s.env.moves with
  | cons m ms => exact (h.withMoves ms).runMove m
  | nil =>
    cases s.nextPort with
    | some p => exact h.tookChoice.advance p _
    | none => exact .next h

/-- A state agrees with itself but for its history. -/
theorem withHist (v : Blind) (k : Hist) (s : State) : AgreeBut v s.hist k s (s.withHist k) where
  mode := rfl
  turn := rfl
  env := rfl
  address := rfl
  inp _ := rfl
  out := rfl
  pol := rfl
  cfg := rfl
  intBound := rfl
  intPin _ := rfl
  intHandler _ := rfl
  watch := rfl
  asyncFault _ := rfl
  pulseS := rfl
  pulseA := rfl
  svc := rfl
  dispS := rfl
  dispA := rfl
  hist := ⟨Hist.empty, (hist_append_empty _).symm, (hist_append_empty _).symm⟩

theorem refl (v : Blind) (s : State) : AgreeBut v s.hist s.hist s s := withHist v s.hist s

/-! ### Agreement as an equality of states -/

/-- Agreeing caches are one cache but for what the input byte may be. -/
theorem cache_eq (h : AgreeBut v h₀ h₁ s s') :
    s'.block.cache = { s.block.cache with inp := s'.block.cache.inp } := by
  dsimp only
  rw [← h.out, ← h.pol, ← h.cfg]

/-- Agreeing records are one record but for the fields that may differ. -/
theorem block_eq (h : AgreeBut v h₀ h₁ s s') :
    s'.block = { s.block with
      cache := { s.block.cache with inp := s'.block.cache.inp }
      intPin := s'.block.intPin, intHandler := s'.block.intHandler, asyncFault := s'.block.asyncFault } := by
  dsimp only
  rw [← h.cache_eq, ← h.address, ← h.intBound, ← h.watch, ← h.pulseS, ← h.pulseA, ← h.svc, ← h.dispS, ← h.dispA]

/-- Histories that have grown alike from one history are equal. -/
theorem hist_eq (h : AgreeBut v h₀ h₀ s s') : s'.hist = s.hist := by
  obtain ⟨d, hd, hd'⟩ := h.hist
  rw [hd, hd']

end AgreeBut

/-- Outcomes that agree are equal after a change under which agreeing states are equal. -/
theorem OutAgree.outMap_eq {v : Blind} {h₀ h₁ : Hist} {f g : State → State} {o o' : Out} (ho : OutAgree v h₀ h₁ o o')
    (hf : ∀ t t', AgreeBut v h₀ h₁ t t' → g t' = f t) : outMap g o' = outMap f o := by
  cases ho with
  | next h => exact congrArg Host.Outcome.next (hf _ _ h)
  | fault r => rfl
  | refused r => rfl

/-! ### The four claims -/

/-- Settles O47: states that agree but for the cached input byte take agreeing steps. -/
theorem nothingDependsOnTheCachedInput : Obligations.NothingDependsOnTheCachedInput := by
  unfold Obligations.NothingDependsOnTheCachedInput
  intro b s
  have start : AgreeBut { inp := true } s.hist s.hist s (s.setX .inp b) :=
    { AgreeBut.refl _ s with inp := nofun }
  refine start.step.outMap_eq fun t t' h => State.ext_parts ?_ h.mode h.turn h.env h.hist_eq
  simp only [State.setX]
  rw [h.block_eq, h.intPin (.inl rfl), h.intHandler (.inl rfl), h.asyncFault rfl]
  rfl

/-- Settles O49: states that agree but for the sticky flag take agreeing steps. -/
theorem nothingDependsOnAsyncFault : Obligations.NothingDependsOnAsyncFault := by
  unfold Obligations.NothingDependsOnAsyncFault
  intro b s
  have start : AgreeBut { fault := true } s.hist s.hist s (s.withAsyncFault b) :=
    { AgreeBut.refl _ s with asyncFault := nofun }
  refine start.step.outMap_eq fun t t' h => State.ext_parts ?_ h.mode h.turn h.env h.hist_eq
  simp only [withAsyncFault_block]
  rw [h.block_eq, h.inp rfl, h.intPin (.inl rfl), h.intHandler (.inl rfl)]

/-- States that agree but for unbound tokens are equal once those are forgotten. -/
theorem AgreeBut.forgetUnbound {h₀ : Hist} {t t' : State} (h : AgreeBut { tokens := true } h₀ h₀ t t') :
    t'.forgetUnbound = t.forgetUnbound := by
  simp only [State.forgetUnbound, h.intBound]
  split
  · next hb =>
    refine State.ext_parts ?_ h.mode h.turn h.env h.hist_eq
    rw [h.block_eq, h.inp rfl, h.asyncFault rfl, h.intPin (.inr hb), h.intHandler (.inr hb)]
  · refine State.ext_parts ?_ h.mode h.turn h.env h.hist_eq
    simp only [withTokens_block]
    rw [h.block_eq, h.inp rfl, h.asyncFault rfl]

/-- Settles O50: unbound states that agree but for the tokens of a binding take agreeing steps. -/
theorem unboundTokensAreMeaningless : Obligations.UnboundTokensAreMeaningless := by
  unfold Obligations.UnboundTokensAreMeaningless
  intro xp k s hb
  have hne : ¬(({ tokens := true } : Blind).tokens = false ∨ s.block.intBound = true) := by simp [hb]
  have start : AgreeBut { tokens := true } s.hist s.hist s (s.withTokens xp k) :=
    { AgreeBut.refl _ s with intPin := fun hv => absurd hv hne, intHandler := fun hv => absurd hv hne }
  exact start.step.outMap_eq fun _ _ h => h.forgetUnbound

/-- Where only the histories differ, an outcome is the other with its history exchanged. -/
theorem OutAgree.histories {h₀ h₁ : Hist} {o o' : Out} (ho : OutAgree {} h₀ h₁ o o') :
    ∃ d : Hist, o' = outMap (State.withHist (h₁.append d)) o ∧ ∀ t, o = .next t → t.hist = h₀.append d := by
  cases ho with
  | @next t t' h =>
    obtain ⟨d, hd, hd'⟩ := h.hist
    refine ⟨d, congrArg Host.Outcome.next (State.ext_parts ?_ h.mode h.turn h.env hd'), ?_⟩
    · rw [h.block_eq, h.inp rfl, h.asyncFault rfl, h.intPin (.inl rfl), h.intHandler (.inl rfl)]
      rfl
    · rintro _ ⟨⟩
      exact hd
  | fault r => exact ⟨Hist.empty, rfl, fun _ he => by cases he⟩
  | refused r => exact ⟨Hist.empty, rfl, fun _ he => by cases he⟩

/-- Settles O48: a state and the same with other histories take agreeing steps, whose histories grow alike. -/
theorem nothingDependsOnTheHistories : Obligations.NothingDependsOnTheHistories := by
  unfold Obligations.NothingDependsOnTheHistories
  intro k s
  have agree : OutAgree {} s.hist k (step s) (step (s.withHist k)) := (AgreeBut.withHist {} k s).step
  exact agree.histories

end Sys2Proof.Machine
end

section
/-! PROOFS. The single-bit state (10_state.md R26, R31): which steps change the binding, the sticky flag and the failed
phase of the service sequence. Each part of a step that changes none of them is shown so once (`KeepsFlags`). -/

namespace Sys2Proof.Machine

/-- The step from `s` to `t` leaves the binding and the sticky flag, and no service sequence fails in it. -/
structure KeepsFlags (s t : State) : Prop where
  intBound   : t.block.intBound = s.block.intBound
  intPin     : t.block.intPin = s.block.intPin
  intHandler : t.block.intHandler = s.block.intHandler
  asyncFault : t.block.asyncFault = s.block.asyncFault
  failed     : ∀ e, t.block.svc = .failed e → s.block.svc = .failed e

/-- A service sequence in the phase it was in has not failed in the step. -/
theorem keepsFlags_of_eq {s t : State} (h1 : t.block.intBound = s.block.intBound) (h2 : t.block.intPin = s.block.intPin)
    (h3 : t.block.intHandler = s.block.intHandler) (h4 : t.block.asyncFault = s.block.asyncFault)
    (h5 : t.block.svc = s.block.svc) : KeepsFlags s t := ⟨h1, h2, h3, h4, fun _ he => h5 ▸ he⟩

theorem keepsFlags_of_block {s t : State} (h : t.block = s.block) : KeepsFlags s t := by
  apply keepsFlags_of_eq <;> rw [h]

/-- A new phase of the service sequence, not the failed one, leaves the flags. -/
theorem keepsFlags_of_svc {s t : State} {v : Svc} (h : t.block = { s.block with svc := v }) (hv : ∀ e, v ≠ .failed e) :
    KeepsFlags s t := by
  refine ⟨?_, ?_, ?_, ?_, fun e he => absurd he (h ▸ hv e)⟩ <;> rw [h]

theorem KeepsFlags.trans {s t u : State} (h : KeepsFlags s t) (h' : KeepsFlags t u) : KeepsFlags s u :=
  ⟨h'.intBound.trans h.intBound, h'.intPin.trans h.intPin, h'.intHandler.trans h.intHandler,
    h'.asyncFault.trans h.asyncFault, fun e he => h.failed e (h'.failed e he)⟩

/-! ### The operations -/

theorem respond_keepsFlags (st : Status) (v : Byte) (s : State) : KeepsFlags s (s.respond st v) := keepsFlags_of_block rfl

theorem raise_keepsFlags (r : Raise) (s : State) : KeepsFlags s (s.raise r) := keepsFlags_of_block rfl

theorem setPulse_keepsFlags (p : Port) (v : Pulse) (s : State) : KeepsFlags s (s.setPulse p v) :=
  keepsFlags_of_eq (by simp) (by simp) (by simp) (by simp) (by simp)

theorem setDisp_keepsFlags (p : Port) (fs : List Fanout) (s : State) : KeepsFlags s (s.setDisp p fs) :=
  keepsFlags_of_eq (by simp) (by simp) (by simp) (by simp) (by simp)

theorem setWatch_keepsFlags (i : PinIdx) (h : Tok) (s : State) : KeepsFlags s (s.setWatch i h) :=
  keepsFlags_of_eq rfl rfl rfl rfl rfl

/-- A service sequence that notes a removal is in the phase it was in. -/
theorem noteRemoved_failed {i : PinIdx} {v : Svc} {e : Byte} (h : v.noteRemoved i = .failed e) : v = .failed e := by
  cases v with
  | fanout f => cases h
  | _ => exact h

theorem clearWatch_keepsFlags (i : PinIdx) (s : State) : KeepsFlags s (s.clearWatch i) := by
  refine ⟨clearWatch_intBound s i, clearWatch_intPin s i, clearWatch_intHandler s i, clearWatch_asyncFault s i, ?_⟩
  intro e he
  cases hm : s.mode with
  | snapshot => rwa [clearWatch_snapshot s i hm] at he
  | live =>
    rw [clearWatch_live s i hm] at he
    exact noteRemoved_failed he

theorem deviceRead_keepsFlags (r : Reg) (s : State) : KeepsFlags s (deviceRead r s).2 := by
  rcases deviceRead_cases r s with ⟨b, -, h⟩ | ⟨e, -, h⟩ <;> rw [h] <;> exact keepsFlags_of_eq rfl rfl rfl rfl rfl

theorem deviceWrite_keepsFlags (r : Reg) (b : Byte) (s : State) : KeepsFlags s (deviceWrite r b s).2 := by
  rcases deviceWrite_cases r b s with h | ⟨e, h⟩ <;> rw [h] <;> exact keepsFlags_of_eq rfl rfl rfl rfl rfl

/-! ### The commands but SETINT and CLOSE -/

theorem writeCommand_keepsFlags (r : Reg) (b : Byte) (s : State) : KeepsFlags s (writeCommand r b s) := by
  refine (deviceWrite_keepsFlags r b s).trans ?_
  unfold writeCommand
  split <;> next h => rw [h]; exact keepsFlags_of_block rfl

theorem readCommand_keepsFlags (r : Reg) (s : State) : KeepsFlags s (readCommand r s) := by
  refine (deviceRead_keepsFlags r s).trans ?_
  unfold readCommand
  split <;> next h => rw [h]; exact keepsFlags_of_block rfl

theorem preadCommand_keepsFlags (i : PinIdx) (s : State) : KeepsFlags s (preadCommand i s) := by
  refine (deviceRead_keepsFlags .inp s).trans ?_
  unfold preadCommand
  split <;> next h => rw [h]; exact keepsFlags_of_block rfl

theorem watchCommand_keepsFlags (i : PinIdx) (h : Tok) (s : State) : KeepsFlags s (watchCommand i h s) := by
  refine (deviceWrite_keepsFlags .cfg (mergeBit (s.x .cfg) i true) s).trans ?_
  unfold watchCommand
  split
  · next hw => rw [hw]; exact (setWatch_keepsFlags i h _).trans (respond_keepsFlags _ _ _)
  · next hw => rw [hw]; exact raise_keepsFlags _ _

theorem drainPoll_keepsFlags (p : Port) (i : PinIdx) (l : Level) (s : State) : KeepsFlags s (drainPoll p i l s) := by
  refine (deviceRead_keepsFlags .inp s).trans ?_
  unfold drainPoll
  split
  · next hr => rw [hr]; exact setPulse_keepsFlags _ _ _
  · next hr => rw [hr]; exact (setPulse_keepsFlags _ _ _).trans (keepsFlags_of_block rfl)

theorem settleDisp_keepsFlags (p : Port) (f : Fanout) (rest : List Fanout) (s : State) :
    KeepsFlags s (settleDisp p f rest s) := by
  unfold settleDisp
  split
  · exact (setDisp_keepsFlags p rest s).trans (keepsFlags_of_block rfl)
  · exact setDisp_keepsFlags p _ s

/-- A command leaves the binding, the flag and the failed phase, unless it is SETINT or CLOSE. -/
theorem exec_flags {i : Instr} {s t : State} (h : exec i s = .next t) :
    KeepsFlags s t ∨ (∃ xp k, i = .setint xp k) ∨ i = .close := by
  cases i with
  | setint xp k => exact .inr (.inl ⟨xp, k, rfl⟩)
  | close => exact .inr (.inr rfl)
  | pstop i | unreg i => cases h; exact .inl ((clearWatch_keepsFlags i s).trans (respond_keepsFlags _ _ _))
  | reg i k => cases h; exact .inl ((setWatch_keepsFlags i k s).trans (respond_keepsFlags _ _ _))
  | ppull i k => cases h; exact .inl (raise_keepsFlags _ _)
  | disp b => cases h; exact .inl (settleDisp_keepsFlags _ _ _ _)
  | rdin | rdout | rdcfg | rdpol => obtain ⟨-, rfl⟩ := guardBus_eq_next h; exact .inl (readCommand_keepsFlags _ _)
  | pread i => obtain ⟨-, rfl⟩ := guardBus_eq_next h; exact .inl (preadCommand_keepsFlags i s)
  | pwatch i e k => obtain ⟨-, rfl⟩ := guardBus_eq_next h; exact .inl (watchCommand_keepsFlags i k s)
  | ppulse i l => obtain ⟨-, rfl⟩ := guardBus_eq_next h; exact .inl (drainPoll_keepsFlags _ i l s)
  | wrcfg _ | wrpol _ | wrout _ | pdir _ _ | pactlow _ _ | pwrite _ _ =>
    obtain ⟨-, rfl⟩ := guardBus_eq_next h
    exact .inl (writeCommand_keepsFlags _ _ _)

/-- SETINT and CLOSE leave the flag and the service sequence, so no command touches either. -/
theorem exec_keepsFault {i : Instr} {s t : State} (h : exec i s = .next t) :
    t.block.asyncFault = s.block.asyncFault ∧ ∀ e, t.block.svc = .failed e → s.block.svc = .failed e := by
  rcases exec_flags h with hk | ⟨xp, k, rfl⟩ | rfl
  · exact ⟨hk.asyncFault, hk.failed⟩
  · rcases setint_cases h with ⟨-, rfl⟩ | ⟨-, -, rfl⟩ | ⟨-, -, -, rfl⟩ | ⟨-, -, -, rfl⟩ <;> exact ⟨rfl, fun _ he => he⟩
  · rcases close_cases h with ⟨-, rfl⟩ | ⟨-, -, rfl⟩ | ⟨-, -, rfl⟩ <;> exact ⟨rfl, fun _ he => he⟩

/-! ### The steps of the sequences in progress -/

theorem poll_keepsFlags {p : Port} {s t : State} (h : poll p s = .next t) : KeepsFlags s t := by
  obtain ⟨b, v, hb⟩ := poll_block h
  apply keepsFlags_of_eq <;> simp [hb]

theorem settleSvc_keepsFlags (f : Fanout) (s : State) : KeepsFlags s (settleSvc f s) := by
  unfold settleSvc
  split
  · exact keepsFlags_of_svc rfl fun _ => nofun
  · exact keepsFlags_of_svc rfl fun _ => nofun

theorem handlerReturn_keepsFlags (p : Port) (s : State) : KeepsFlags s (handlerReturn p s) := by
  unfold handlerReturn
  split
  · exact settleDisp_keepsFlags _ _ _ _
  · exact settleSvc_keepsFlags _ _
  · exact settleSvc_keepsFlags _ _
  · exact keepsFlags_of_block rfl

theorem advanceDisp_keepsFlags (p : Port) (k : Nat) (f : Fanout) (rest : List Fanout) (s : State) :
    KeepsFlags s (advanceDisp p k f rest s) := by
  unfold advanceDisp
  split
  · exact (setDisp_keepsFlags p _ s).trans (keepsFlags_of_block rfl)
  · exact (setDisp_keepsFlags p rest s).trans (keepsFlags_of_block rfl)

theorem advanceSvc_keepsFlags (k : Nat) (f : Fanout) (s : State) : KeepsFlags s (advanceSvc k f s) := by
  unfold advanceSvc
  split
  · exact keepsFlags_of_svc rfl fun _ => nofun
  · exact keepsFlags_of_svc rfl fun _ => nofun

/-- The service sequence's own step sets the flag only after its read failed. -/
theorem advanceService_flags (k : Nat) (s : State) :
    KeepsFlags s (advanceService k s) ∨
      ∃ e, s.block.svc = .failed e ∧ advanceService k s = serviceAbort e s := by
  unfold advanceService
  split
  · exact .inl (keepsFlags_of_svc rfl fun _ => nofun)
  · split
    · exact .inl (advanceSvc_keepsFlags _ _ s)
    · exact .inl (keepsFlags_of_block rfl)
  · next e hs => exact .inr ⟨e, hs, rfl⟩
  · exact .inl (keepsFlags_of_svc rfl fun _ => nofun)
  · exact .inl (keepsFlags_of_block rfl)

theorem advanceHandlers_flags (p : Port) (k : Nat) (s : State) :
    KeepsFlags s (advanceHandlers p k s) ∨
      ∃ e, s.block.svc = .failed e ∧ advanceHandlers p k s = serviceAbort e s := by
  unfold advanceHandlers
  split
  · split
    · exact .inl (advanceDisp_keepsFlags _ _ _ _ s)
    · exact .inl (keepsFlags_of_block rfl)
  · exact .inl (keepsFlags_of_block rfl)
  · exact advanceService_flags k s

/-- A served edge event leaves the binding and the flag; its read, where it fails, is why the sequence fails. -/
theorem serviceEntry_flags (s : State) :
    (serviceEntry s).block.intBound = s.block.intBound ∧ (serviceEntry s).block.intPin = s.block.intPin ∧
      (serviceEntry s).block.intHandler = s.block.intHandler ∧ (serviceEntry s).block.asyncFault = s.block.asyncFault ∧
      ∀ e, (serviceEntry s).block.svc = .failed e → s.busReply = .err e := by
  rcases deviceRead_cases .inp s with ⟨b, -, h⟩ | ⟨e, hr, h⟩ <;> simp only [serviceEntry, h]
  · exact ⟨rfl, rfl, rfl, rfl, nofun⟩
  · refine ⟨rfl, rfl, rfl, rfl, fun e' he => ?_⟩
    cases he
    exact hr

/-! ### What a whole step does to the flags -/

theorem SameButEnv.keepsFlags {s u : State} (h : SameButEnv s u) : KeepsFlags s u := keepsFlags_of_block h.block

/-- A step leaves the flags, or is a command that `exec` runs, the entry of a service sequence, or its abort. -/
theorem step_flags {s t : State} (h : step s = .next t) :
    KeepsFlags s t ∨
    (∃ p w ms i, s.env.moves = .command p w :: ms ∧ decode w = some i ∧ exec i ((s.withMoves ms).onPort p) = .next t) ∨
    (∃ ms, s.env.moves = .edge :: ms ∧ s.block.svc = .idle ∧ s.block.intBound = true ∧
      t = serviceEntry (s.withMoves ms)) ∨
    (∃ u e, SameButEnv s u ∧ s.block.svc = .failed e ∧ t = serviceAbort e u) := by
  rcases step_cases h with ⟨p, w, ms, i, hm, -, hd, he⟩ | ⟨p, w, ms, -, -, -, rfl⟩ | ⟨ms, -, -, -, rfl⟩ |
    ⟨ms, hm, hs, hb, -, rfl⟩ | ⟨p, u, hu, -, hp⟩ | ⟨p, k, u, hu, -, rfl⟩ | ⟨p, ms, -, -, rfl⟩ | rfl
  · exact .inr (.inl ⟨p, w, ms, i, hm, hd, he⟩)
  · exact .inl (keepsFlags_of_block rfl)
  · exact .inl (keepsFlags_of_block rfl)
  · exact .inr (.inr (.inl ⟨ms, hm, hs, hb, rfl⟩))
  · exact .inl (hu.keepsFlags.trans (poll_keepsFlags hp))
  · rcases advanceHandlers_flags p k u with hk | ⟨e, hs, ha⟩
    · exact .inl (hu.keepsFlags.trans hk)
    · exact .inr (.inr (.inr ⟨u, e, hu, hu.block ▸ hs, ha⟩))
  · exact .inl ((sameButEnv_withMoves s ms).keepsFlags.trans (handlerReturn_keepsFlags p _))
  · exact .inl (keepsFlags_of_block rfl)

/-- Settles O42: only the abort writes the flag, and only a served edge event whose read fails leads to it. -/
theorem asyncFaultIsStickyAndHasOneCause : Obligations.AsyncFaultIsStickyAndHasOneCause := by
  unfold Obligations.AsyncFaultIsStickyAndHasOneCause
  intro s t h
  have same : t.block.asyncFault = s.block.asyncFault →
      (s.block.asyncFault = true → t.block.asyncFault = true) ∧
      (s.block.asyncFault = false → t.block.asyncFault = true → ∃ e, s.block.svc = .failed e) := by
    intro he
    rw [he]
    exact ⟨id, fun h0 h1 => absurd (h0.symm.trans h1) nofun⟩
  rcases step_flags h with hk | ⟨p, w, ms, i, -, -, he⟩ | ⟨ms, hm, hs, hb, rfl⟩ | ⟨u, e, hu, hs, rfl⟩
  · exact ⟨(same hk.asyncFault).1, (same hk.asyncFault).2, fun e he => .inl (hk.failed e he)⟩
  · obtain ⟨ha, hf⟩ := exec_keepsFault he
    exact ⟨(same ha).1, (same ha).2, fun e he => .inl (hf e he)⟩
  · obtain ⟨-, -, -, ha, hf⟩ := serviceEntry_flags (s.withMoves ms)
    exact ⟨(same ha).1, (same ha).2, fun e he => .inr ⟨by rw [hm]; rfl, hs, hb, hf e he⟩⟩
  · exact ⟨fun _ => rfl, fun _ _ => ⟨e, hs⟩, nofun⟩

/-- The step from `s` to `t` changes the binding. -/
def ChangesBinding (s t : State) : Prop :=
  t.block.intBound ≠ s.block.intBound ∨ t.block.intPin ≠ s.block.intPin ∨ t.block.intHandler ≠ s.block.intHandler

theorem not_changesBinding {s t : State} (h1 : t.block.intBound = s.block.intBound)
    (h2 : t.block.intPin = s.block.intPin) (h3 : t.block.intHandler = s.block.intHandler) : ¬ ChangesBinding s t := by
  rintro (h | h | h)
  · exact h h1
  · exact h h2
  · exact h h3

/-- A command that changes the binding is a SETINT or a CLOSE that answers OK. -/
theorem exec_changesBinding {i : Instr} {s t : State} (h : exec i s = .next t) (hc : ChangesBinding s t) :
    t.hist.responses = s.hist.responses ++ [⟨s.turn, responseWord .ok 0x00, none⟩] ∧
      ((∃ xp k, i = .setint xp k ∧ s.block.intBound = false ∧
          t.block.intBound = true ∧ t.block.intPin = xp ∧ t.block.intHandler = k) ∨
        (i = .close ∧ s.block.intBound = true ∧
          t.block.intBound = false ∧ t.block.intPin = s.block.intPin ∧ t.block.intHandler = s.block.intHandler)) := by
  rcases exec_flags h with hk | ⟨xp, k, rfl⟩ | rfl
  · exact absurd hc (not_changesBinding hk.intBound hk.intPin hk.intHandler)
  · rcases setint_cases h with ⟨-, rfl⟩ | ⟨-, -, rfl⟩ | ⟨-, -, -, rfl⟩ | ⟨hb, -, -, rfl⟩
    · exact absurd hc (not_changesBinding rfl rfl rfl)
    · exact absurd hc (not_changesBinding rfl rfl rfl)
    · exact absurd hc (not_changesBinding rfl rfl rfl)
    · exact ⟨rfl, .inl ⟨xp, k, rfl, hb, rfl, rfl, rfl⟩⟩
  · rcases close_cases h with ⟨-, rfl⟩ | ⟨hb, -, rfl⟩ | ⟨-, -, rfl⟩
    · exact absurd hc (not_changesBinding rfl rfl rfl)
    · exact ⟨rfl, .inr ⟨rfl, hb, rfl, rfl, rfl⟩⟩
    · exact absurd hc (not_changesBinding rfl rfl rfl)

/-- Settles O43: of the steps that do not leave the flags, the entry and the abort of a service sequence leave the
binding, and of the commands only SETINT and CLOSE do not. -/
theorem onlySetintAndCloseChangeTheBinding : Obligations.OnlySetintAndCloseChangeTheBinding := by
  unfold Obligations.OnlySetintAndCloseChangeTheBinding
  intro s t h hc
  rcases step_flags h with hk | ⟨p, w, ms, i, hm, hd, he⟩ | ⟨ms, -, -, -, rfl⟩ | ⟨u, e, hu, -, rfl⟩
  · exact absurd hc (not_changesBinding hk.intBound hk.intPin hk.intHandler)
  · obtain ⟨hr, hcase⟩ := exec_changesBinding he hc
    refine ⟨p, w, ms, hm, hr, ?_⟩
    rcases hcase with ⟨xp, k, rfl, hrest⟩ | ⟨rfl, hrest⟩
    · exact .inl ⟨xp, k, hd, hrest⟩
    · exact .inr ⟨hd, hrest⟩
  · obtain ⟨h1, h2, h3, -, -⟩ := serviceEntry_flags (s.withMoves ms)
    exact absurd hc (not_changesBinding h1 h2 h3)
  · have hk := hu.keepsFlags
    exact absurd hc (not_changesBinding hk.intBound hk.intPin hk.intHandler)

end Sys2Proof.Machine
end

section
/-! PROOFS. The bus transactions of the commands (20_memory.md R60), the merges of pin writes from two ports (R62), and
the cache against an echo bus (R56). -/

namespace Sys2Proof.Machine

/-! ### The transactions of a command (R60) -/

/-- A write command makes its write whatever the answer. -/
theorem writeCommand_appends (r : Reg) (b : Byte) (s : State) :
    ∃ y, (writeCommand r b s).hist.bus = s.hist.bus ++ [.write s.block.address r b y] := by
  rcases deviceWrite_cases r b s with h | ⟨e, h⟩ <;> simp only [writeCommand, h]
  · exact ⟨.ok, rfl⟩
  · exact ⟨.err e, rfl⟩

theorem watchCommand_appends (i : PinIdx) (h : Tok) (s : State) :
    ∃ y, (watchCommand i h s).hist.bus =
      s.hist.bus ++ [.write s.block.address .cfg (mergeBit (s.x .cfg) i true) y] := by
  rcases deviceWrite_cases .cfg (mergeBit (s.x .cfg) i true) s with hw | ⟨e, hw⟩ <;> simp only [watchCommand, hw]
  · exact ⟨.ok, rfl⟩
  · exact ⟨.err e, rfl⟩

/-- A read command makes its read whatever the answer. -/
theorem readCommand_appends (r : Reg) (s : State) :
    ∃ y, (readCommand r s).hist.bus = s.hist.bus ++ [.read s.block.address r y] := by
  rcases deviceRead_cases r s with ⟨b, -, h⟩ | ⟨e, -, h⟩ <;> simp only [readCommand, h]
  · exact ⟨.ok b, rfl⟩
  · exact ⟨.err e, rfl⟩

theorem preadCommand_appends (i : PinIdx) (s : State) :
    ∃ y, (preadCommand i s).hist.bus = s.hist.bus ++ [.read s.block.address .inp y] := by
  rcases deviceRead_cases .inp s with ⟨b, -, h⟩ | ⟨e, -, h⟩ <;> simp only [preadCommand, h]
  · exact ⟨.ok b, rfl⟩
  · exact ⟨.err e, rfl⟩

theorem drainPoll_appends (p : Port) (i : PinIdx) (l : Level) (s : State) :
    ∃ y, (drainPoll p i l s).hist.bus = s.hist.bus ++ [.read s.block.address .inp y] := by
  rcases deviceRead_cases .inp s with ⟨b, -, h⟩ | ⟨e, -, h⟩ <;> simp only [drainPoll, h]
  · exact ⟨.ok b, by simp⟩
  · exact ⟨.err e, by simp [pollFailed]⟩

/-- Where a DISP stands or ends, the bus is not used. -/
theorem settleDisp_hist_bus (p : Port) (f : Fanout) (rest : List Fanout) (s : State) :
    (settleDisp p f rest s).hist.bus = s.hist.bus := by
  unfold settleDisp
  split
  · simp [endDisp]
  · simp

/-- A step that leaves the bus history made no transaction. -/
theorem appends_none {s t : State} (h : t.hist.bus = s.hist.bus) :
    ∃ l, t.hist.bus = s.hist.bus ++ l ∧ l = [] := ⟨[], by rw [h, List.append_nil], rfl⟩

/-- Settles O44: a command that uses the bus is one of the shared operations above, and the others leave the bus
history. -/
theorem commandsMakeTheirTransactions : Obligations.CommandsMakeTheirTransactions := by
  unfold Obligations.CommandsMakeTheirTransactions
  intro i s t h
  cases i with
  | setint xp k =>
    rcases setint_cases h with ⟨-, rfl⟩ | ⟨-, -, rfl⟩ | ⟨-, -, -, rfl⟩ | ⟨-, -, -, rfl⟩ <;> exact appends_none rfl
  | close => rcases close_cases h with ⟨-, rfl⟩ | ⟨-, -, rfl⟩ | ⟨-, -, rfl⟩ <;> exact appends_none rfl
  | pstop i | unreg i | reg i k | ppull i k => cases h; exact appends_none rfl
  | disp b => cases h; exact appends_none (settleDisp_hist_bus _ _ _ s)
  | wrcfg b | wrpol b | wrout b =>
    obtain ⟨-, rfl⟩ := guardBus_eq_next h
    exact (writeCommand_appends _ b s).elim fun y hy => ⟨_, hy, y, rfl⟩
  | pdir i d | pactlow i a | pwrite i l =>
    obtain ⟨-, rfl⟩ := guardBus_eq_next h
    exact (writeCommand_appends _ _ s).elim fun y hy => ⟨_, hy, _, y, rfl⟩
  | pwatch i e k =>
    obtain ⟨-, rfl⟩ := guardBus_eq_next h
    exact (watchCommand_appends i k s).elim fun y hy => ⟨_, hy, _, y, rfl⟩
  | rdin | rdout | rdcfg | rdpol =>
    obtain ⟨-, rfl⟩ := guardBus_eq_next h
    exact (readCommand_appends _ s).elim fun y hy => ⟨_, hy, y, rfl⟩
  | pread i =>
    obtain ⟨-, rfl⟩ := guardBus_eq_next h
    exact (preadCommand_appends i s).elim fun y hy => ⟨_, hy, y, rfl⟩
  | ppulse i l =>
    obtain ⟨-, rfl⟩ := guardBus_eq_next h
    exact (drainPoll_appends _ i l s).elim fun y hy => ⟨_, hy, y, rfl⟩

/-! ### Pin writes from two ports (R62) -/

theorem getLsbD_bitMask (i : PinIdx) (k : Nat) : (bitMask i).getLsbD k = decide (k = i.val) := by
  rw [bitMask, ← BitVec.twoPow_eq, BitVec.getLsbD_twoPow]
  simp [i.isLt, eq_comm]

/-- The merge writes its own bit and no other (00_scope.md R10, 41_digital_pin.md R131). -/
theorem getLsbD_mergeBit (x : Byte) (i : PinIdx) (v : Bool) {k : Nat} (hk : k < 8) :
    (mergeBit x i v).getLsbD k = if k = i.val then v else x.getLsbD k := by
  have hmask : (clearMask i).getLsbD k = !decide (k = i.val) := by
    rw [clearMask_eq_not, BitVec.getLsbD_not, getLsbD_bitMask, decide_eq_true hk, Bool.true_and]
  have hbit : (if v then bitMask i else 0x00#8).getLsbD k = (v && decide (k = i.val)) := by
    cases v <;> simp [getLsbD_bitMask]
  rw [mergeBit, BitVec.getLsbD_or, BitVec.getLsbD_and, hmask, hbit]
  by_cases h : k = i.val <;> simp [h]

theorem level_bit_eq (l : Level) : l.bit = decide (l = .high) := by cases l <;> rfl

/-- A PWRITE that the bus answers leaves the merged byte in the cached output register. -/
theorem pwrite_out {i : PinIdx} {l : Level} {v : Byte} {s t : State} (hr : s.busReply = .ok v)
    (h : exec (.pwrite i l) s = .next t) : t.x .out = mergeBit (s.x .out) i l.bit := by
  obtain ⟨-, rfl⟩ := guardBus_eq_next h
  rw [mergeCommand, writeCommand_ok hr]
  simp [State.x]

/-- Settles O51: the second PWRITE merges into the byte the first one left, whichever ports issued them. -/
theorem pinWritesFromTwoPortsLoseNoBit : Obligations.PinWritesFromTwoPortsLoseNoBit := by
  unfold Obligations.PinWritesFromTwoPortsLoseNoBit
  intro i j l m p q v w s t u hij hv ht hw hu k hk
  have first : t.x .out = mergeBit (s.x .out) i l.bit := pwrite_out (s := s.onPort p) hv ht
  have second : u.x .out = mergeBit (t.x .out) j m.bit := pwrite_out (s := t.onPort q) hw hu
  rw [second, getLsbD_mergeBit _ _ _ hk, first, getLsbD_mergeBit _ _ _ hk, level_bit_eq, level_bit_eq]
  by_cases hi : k = i.val
  · have hj : k ≠ j.val := fun hj => hij (Fin.ext (hi.symm.trans hj))
    rw [if_neg hj, if_pos hi, if_pos hi]
  · rw [if_neg hi, if_neg hi]

/-! ### The cache and an echo bus (R56) -/

theorem lastByte_cons (r : Reg) (x : BusTxn) (l : List BusTxn) :
    lastByte r (x :: l) = (lastByte r l).or (x.movedByte r) := by
  unfold lastByte
  cases h : x.movedByte r <;> simp [h, List.getLast?_cons]

/-- Each answer of an echo bus leaves it with the byte that the transaction moved, and its other bytes as they were. -/
theorem echoAfter_cons {chip chip' : Cache} {x : BusTxn} {l : List BusTxn} (h : echoAfter chip (x :: l) = some chip') :
    ∃ chip₁, echoAfter chip₁ l = some chip' ∧ ∀ r, chip₁.get r = (x.movedByte r).getD (chip.get r) := by
  cases x with
  | read a q reply =>
    cases reply with
    | ok b =>
      simp only [echoAfter] at h
      split at h
      · next hb =>
        refine ⟨chip, h, fun r => ?_⟩
        by_cases hr : q = r <;> simp [BusTxn.movedByte, hr, ← hb]
      · cases h
    | err e => cases h
  | write a q b reply =>
    cases reply with
    | ok =>
      refine ⟨chip.set q b, h, fun r => ?_⟩
      by_cases hr : q = r <;> simp [BusTxn.movedByte, Cache.get_set, hr, eq_comm]
    | err e => cases h

/-- An echo bus holds in each register the last byte moved there, or the byte it started with. -/
theorem echoAfter_get {chip' : Cache} (r : Reg) (l : List BusTxn) (chip : Cache) (h : echoAfter chip l = some chip') :
    chip'.get r = (lastByte r l).getD (chip.get r) := by
  induction l generalizing chip with
  | nil => cases h; rfl
  | cons x l ih =>
    obtain ⟨chip₁, hl, hx⟩ := echoAfter_cons h
    rw [ih chip₁ hl, hx, lastByte_cons, Option.getD_or]

/-- Settles O53: the cache and the echo bus both hold the last byte moved on the register. -/
theorem cacheAgreesWithAnEchoBus : Obligations.CacheAgreesWithAnEchoBus := by
  unfold Obligations.CacheAgreesWithAnEchoBus
  intro c chip chip' s t hs hst hecho r hr
  obtain ⟨b, hb⟩ := Option.ne_none_iff_exists'.mp hr
  have hcache : t.x r = b := by rw [(step_bus s t hst).cacheTracksBus hs r, hb, Option.getD_some]
  have hchip : chip'.get r = b := by rw [echoAfter_get r _ chip hecho, hb, Option.getD_some]
  rw [hcache, hchip]

end Sys2Proof.Machine
end

section
/-! PROOFS. The decoder and the encoder (30_encoding.md R80 to R85): each format reads back the word with its operands and
accepts no other, so `decode` and `encode` are inverse, and the words of the opcode map are exactly the words of commands. -/

namespace Sys2Proof

/-! ### A format reads the operands of its word (R82, R83) -/

theorem formatZ_assemble (op : BitVec 5) (c : Instr) : formatZ (assembleWord op 0#3 0#8 0#8) c = some c := by
  simp [formatZ]

theorem formatD_assemble (op : BitVec 5) (dat : Byte) (c : Byte → Instr) :
    formatD (assembleWord op 0#3 0#8 dat) c = some (c dat) := by
  simp [formatD]

theorem formatB_assemble (op : BitVec 5) (tok : Tok) (dat : Byte) (c : Tok → Tok → Instr) :
    formatB (assembleWord op 0#3 tok dat) c = some (c dat tok) := by
  simp [formatB]

theorem formatP_assemble (op : BitVec 5) (i : PinIdx) (c : PinIdx → Instr) :
    formatP (assembleWord op (fieldOfPin i) 0#8 0#8) c = some (c i) := by
  simp [formatP]

theorem formatPB_assemble (op : BitVec 5) (i : PinIdx) (b : Bool) (c : PinIdx → Bool → Instr) :
    formatPB (assembleWord op (fieldOfPin i) 0#8 (datOfBit b)) c = some (c i b) := by
  simp [formatPB]

theorem formatPT_assemble (op : BitVec 5) (i : PinIdx) (tok : Tok) (c : PinIdx → Tok → Instr) :
    formatPT (assembleWord op (fieldOfPin i) tok 0#8) c = some (c i tok) := by
  simp [formatPT]

theorem formatPTE_assemble (op : BitVec 5) (i : PinIdx) (e : EdgeKind) (tok : Tok)
    (c : PinIdx → EdgeKind → Tok → Instr) :
    formatPTE (assembleWord op (fieldOfPin i) tok e.dat) c = some (c i e tok) := by
  simp [formatPTE]

/-- Settles O1: the opcode of the word selects the row of the command's own format, which reads its operands back. -/
theorem decodeEncodeRoundTrip : Obligations.DecodeEncodeRoundTrip := by
  unfold Obligations.DecodeEncodeRoundTrip
  intro i
  cases i with
  | rdin | rdout | rdcfg | rdpol | close => simp [encode, decode, formatZ_assemble]
  | wrcfg b | wrpol b | wrout b | disp b => simp [encode, decode, formatD_assemble]
  | setint xp h => simp [encode, decode, formatB_assemble]
  | pread p | pstop p | unreg p => simp [encode, decode, formatP_assemble]
  | pdir p d => simp [encode, decode, formatPB_assemble]
  | pactlow p a => simp [encode, decode, formatPB_assemble]
  | pwrite p l | ppulse p l => simp [encode, decode, formatPB_assemble]
  | ppull p k => simp [encode, decode, formatPB_assemble]
  | reg p h => simp [encode, decode, formatPT_assemble]
  | pwatch p e h => simp [encode, decode, formatPTE_assemble]

/-! ### A format accepts no other word (R85) -/

section
variable {w : CmdWord} {i : Instr} (op : BitVec 5) (hop : (fieldOp w).toNat = op.toNat)
include hop

/-- A word is assembled from the opcode that selected its row and its other fields. -/
theorem assemble_of_op : assembleWord op (fieldIdx w) (fieldTok w) (fieldDat w) = w := by
  rw [← BitVec.eq_of_toNat_eq hop, assembleWord_fields]

theorem encode_of_formatZ {c : Instr} (hc : encode c = assembleWord op 0 0 0) (h : formatZ w c = some i) :
    encode i = w := by
  obtain ⟨⟨hidx, htok, hdat⟩, hi⟩ := Option.ite_none_right_eq_some.mp h
  have hw := assemble_of_op op hop
  rwa [hidx, htok, hdat, ← hc, Option.some.inj hi] at hw

theorem encode_of_formatD {c : Byte → Instr} (hc : ∀ dat, encode (c dat) = assembleWord op 0 0 dat)
    (h : formatD w c = some i) : encode i = w := by
  obtain ⟨⟨hidx, htok⟩, hi⟩ := Option.ite_none_right_eq_some.mp h
  rw [← Option.some.inj hi, hc, ← hidx, ← htok, assemble_of_op op hop]

theorem encode_of_formatB {c : Tok → Tok → Instr} (hc : ∀ dat tok, encode (c dat tok) = assembleWord op 0 tok dat)
    (h : formatB w c = some i) : encode i = w := by
  obtain ⟨hidx, hi⟩ := Option.ite_none_right_eq_some.mp h
  rw [← Option.some.inj hi, hc, ← hidx, assemble_of_op op hop]

theorem encode_of_formatP {c : PinIdx → Instr} (hc : ∀ p, encode (c p) = assembleWord op (fieldOfPin p) 0 0)
    (h : formatP w c = some i) : encode i = w := by
  obtain ⟨⟨htok, hdat⟩, hi⟩ := Option.ite_none_right_eq_some.mp h
  have hw := assemble_of_op op hop
  rwa [htok, hdat, ← fieldOfPin_pinOfField (fieldIdx w), ← hc, Option.some.inj hi] at hw

theorem encode_of_formatPB {c : PinIdx → Bool → Instr}
    (hc : ∀ p b, encode (c p b) = assembleWord op (fieldOfPin p) 0 (datOfBit b)) (h : formatPB w c = some i) :
    encode i = w := by
  obtain ⟨⟨htok, hdat⟩, hi⟩ := Option.ite_none_right_eq_some.mp h
  have hbit : datOfBit ((fieldDat w).getLsbD 0) = fieldDat w := datOfBit_of_rest _ hdat
  rw [← Option.some.inj hi, hc, fieldOfPin_pinOfField, hbit, ← htok, assemble_of_op op hop]

theorem encode_of_formatPT {c : PinIdx → Tok → Instr}
    (hc : ∀ p tok, encode (c p tok) = assembleWord op (fieldOfPin p) tok 0) (h : formatPT w c = some i) :
    encode i = w := by
  obtain ⟨hdat, hi⟩ := Option.ite_none_right_eq_some.mp h
  rw [← Option.some.inj hi, hc, fieldOfPin_pinOfField, ← hdat, assemble_of_op op hop]

theorem encode_of_formatPTE {c : PinIdx → EdgeKind → Tok → Instr}
    (hc : ∀ p e tok, encode (c p e tok) = assembleWord op (fieldOfPin p) tok e.dat) (h : formatPTE w c = some i) :
    encode i = w := by
  obtain ⟨e, he, rfl⟩ := Option.map_eq_some_iff.mp h
  rw [hc, fieldOfPin_pinOfField, EdgeKind.dat_of_ofDat he, assemble_of_op op hop]

end

/-- Settles O2: each row's format accepts only words assembled from the row's opcode and the operands it reads. -/
theorem encodeDecodeRoundTrip : Obligations.EncodeDecodeRoundTrip := by
  unfold Obligations.EncodeDecodeRoundTrip
  intro w i h
  unfold decode at h
  split at h
  next hop => exact encode_of_formatD 0x01 hop (fun _ => rfl) h
  next hop => exact encode_of_formatD 0x02 hop (fun _ => rfl) h
  next hop => exact encode_of_formatD 0x03 hop (fun _ => rfl) h
  next hop => exact encode_of_formatZ 0x04 hop rfl h
  next hop => exact encode_of_formatZ 0x05 hop rfl h
  next hop => exact encode_of_formatZ 0x06 hop rfl h
  next hop => exact encode_of_formatZ 0x07 hop rfl h
  next hop => exact encode_of_formatB 0x08 hop (fun _ _ => rfl) h
  next hop => exact encode_of_formatZ 0x09 hop rfl h
  next hop => exact encode_of_formatPB 0x0A hop (fun _ _ => by simp [encode]) h
  next hop => exact encode_of_formatPB 0x0B hop (fun _ _ => rfl) h
  next hop => exact encode_of_formatPB 0x0C hop (fun _ _ => by simp [encode]) h
  next hop => exact encode_of_formatP 0x0D hop (fun _ => rfl) h
  next hop => exact encode_of_formatPTE 0x0E hop (fun _ _ _ => rfl) h
  next hop => exact encode_of_formatP 0x0F hop (fun _ => rfl) h
  next hop => exact encode_of_formatPB 0x10 hop (fun _ _ => by simp [encode]) h
  next hop => exact encode_of_formatPB 0x11 hop (fun _ _ => by simp [encode]) h
  next hop => exact encode_of_formatPT 0x12 hop (fun _ _ => rfl) h
  next hop => exact encode_of_formatP 0x13 hop (fun _ => rfl) h
  next hop => exact encode_of_formatD 0x14 hop (fun _ => rfl) h
  next => cases h

/-! ### The opcode map and the commands (R84, R85) -/

/-- Every command's word is covered by a row with the command's mnemonic. -/
theorem encodeLegal (i : Instr) : Laws.EncodeLegal.Statement i := by
  cases i with
  | wrcfg b => exact Laws.EncodeLegal.wrcfg b
  | wrpol b => exact Laws.EncodeLegal.wrpol b
  | wrout b => exact Laws.EncodeLegal.wrout b
  | rdin => exact Laws.EncodeLegal.rdin
  | rdout => exact Laws.EncodeLegal.rdout
  | rdcfg => exact Laws.EncodeLegal.rdcfg
  | rdpol => exact Laws.EncodeLegal.rdpol
  | setint xp h => exact Laws.EncodeLegal.setint xp h
  | close => exact Laws.EncodeLegal.close
  | pdir p d => exact Laws.EncodeLegal.pdir p d
  | pactlow p a => exact Laws.EncodeLegal.pactlow p a
  | pwrite p l => exact Laws.EncodeLegal.pwrite p l
  | pread p => exact Laws.EncodeLegal.pread p
  | pwatch p e h => exact Laws.EncodeLegal.pwatch p e h
  | pstop p => exact Laws.EncodeLegal.pstop p
  | ppulse p l => exact Laws.EncodeLegal.ppulse p l
  | ppull p k => exact Laws.EncodeLegal.ppull p k
  | reg p h => exact Laws.EncodeLegal.reg p h
  | unreg p => exact Laws.EncodeLegal.unreg p
  | disp b => exact Laws.EncodeLegal.disp b

/-- Two rows that cover one word agree on the bits both fix. -/
theorem OpRow.patterns_agree {r q : OpRow} {w : CmdWord} (hr : r.covers w = true) (hq : q.covers w = true) :
    r.pattern &&& q.mask = q.pattern &&& r.mask := by
  rw [← eq_of_beq hr, ← eq_of_beq hq, BitVec.and_assoc, BitVec.and_assoc, BitVec.and_comm r.mask]

/-- No two rows of the opcode map agree on the bits both fix. -/
theorem opTable_disjoint : ∀ r ∈ opTable, ∀ q ∈ opTable, r.pattern &&& q.mask = q.pattern &&& r.mask → r = q := by
  decide

/-- At most one row covers a word. -/
theorem covers_unique {r q : OpRow} {w : CmdWord} (hr : r ∈ opTable) (hq : q ∈ opTable) (hrw : r.covers w = true)
    (hqw : q.covers w = true) : r = q :=
  opTable_disjoint r hr q hq (OpRow.patterns_agree hrw hqw)

/-- A byte that the mask of `dat[7:1]` clears is a one-bit operand. -/
theorem datOfBit_of_mask (b : Byte) (h : b &&& 0xFE = 0) : datOfBit b[0] = b := by revert b; decide

/-- A row whose pattern and mask are given by their fields covers a word when the word's fields fit. -/
theorem OpRow.covers_iff_fields {w : CmdWord} {n : String} {op mop : BitVec 5} {idx midx : BitVec 3}
    {tok mtok : Tok} {dat mdat : Byte} :
    OpRow.covers ⟨n, assembleWord op idx tok dat, assembleWord mop midx mtok mdat⟩ w = true ↔
      fieldOp w &&& mop = op ∧ fieldIdx w &&& midx = idx ∧ fieldTok w &&& mtok = tok ∧ fieldDat w &&& mdat = dat := by
  conv_lhs => rw [← assembleWord_fields w, OpRow.covers_assemble]
  simp only [fieldOp_assemble, fieldIdx_assemble, fieldTok_assemble, fieldDat_assemble]

section
variable {w : CmdWord} {n : String} (op : BitVec 5)

theorem exists_encode_of_rowZ (c : Instr) (hc : encode c = assembleWord op 0 0 0)
    (h : OpRow.covers ⟨n, assembleWord op 0 0 0, .allOnes 24⟩ w = true) : ∃ i, encode i = w := by
  have hw : w &&& .allOnes 24 = assembleWord op 0 0 0 := eq_of_beq h
  exact ⟨c, by rw [hc, ← hw, BitVec.and_allOnes]⟩

theorem exists_encode_of_rowD (c : Byte → Instr) (hc : ∀ dat, encode (c dat) = assembleWord op 0 0 dat)
    (h : OpRow.covers ⟨n, assembleWord op 0 0 0, assembleWord (.allOnes 5) (.allOnes 3) (.allOnes 8) 0⟩ w = true) :
    ∃ i, encode i = w := by
  simp only [OpRow.covers_iff_fields, BitVec.and_allOnes] at h
  obtain ⟨hop, hidx, htok, -⟩ := h
  exact ⟨c (fieldDat w), by rw [hc, ← hop, ← hidx, ← htok, assembleWord_fields]⟩

theorem exists_encode_of_rowB (c : Tok → Tok → Instr) (hc : ∀ dat tok, encode (c dat tok) = assembleWord op 0 tok dat)
    (h : OpRow.covers ⟨n, assembleWord op 0 0 0, assembleWord (.allOnes 5) (.allOnes 3) 0 0⟩ w = true) :
    ∃ i, encode i = w := by
  simp only [OpRow.covers_iff_fields, BitVec.and_allOnes] at h
  obtain ⟨hop, hidx, -⟩ := h
  exact ⟨c (fieldDat w) (fieldTok w), by rw [hc, ← hop, ← hidx, assembleWord_fields]⟩

theorem exists_encode_of_rowPB (c : PinIdx → Bool → Instr)
    (hc : ∀ p b, encode (c p b) = assembleWord op (fieldOfPin p) 0 (datOfBit b))
    (h : OpRow.covers ⟨n, assembleWord op 0 0 0, assembleWord (.allOnes 5) 0 (.allOnes 8) 0xFE⟩ w = true) :
    ∃ i, encode i = w := by
  simp only [OpRow.covers_iff_fields, BitVec.and_allOnes] at h
  obtain ⟨hop, -, htok, hdat⟩ := h
  refine ⟨c (pinOfField (fieldIdx w)) (fieldDat w)[0], ?_⟩
  rw [hc, fieldOfPin_pinOfField, datOfBit_of_mask _ hdat, ← hop, ← htok, assembleWord_fields]

/-- The rows of the formats with a pin and the whole of `dat` fixed and `tok` free: PT, and PTE with one edge kind. -/
theorem exists_encode_of_rowPT {dat : Byte} (c : PinIdx → Tok → Instr)
    (hc : ∀ p tok, encode (c p tok) = assembleWord op (fieldOfPin p) tok dat)
    (h : OpRow.covers ⟨n, assembleWord op 0 0 dat, assembleWord (.allOnes 5) 0 0 (.allOnes 8)⟩ w = true) :
    ∃ i, encode i = w := by
  simp only [OpRow.covers_iff_fields, BitVec.and_allOnes] at h
  obtain ⟨hop, -, -, hdat⟩ := h
  refine ⟨c (pinOfField (fieldIdx w)) (fieldTok w), ?_⟩
  rw [hc, fieldOfPin_pinOfField, ← hop, ← hdat, assembleWord_fields]

theorem exists_encode_of_rowP (c : PinIdx → Instr) (hc : ∀ p, encode (c p) = assembleWord op (fieldOfPin p) 0 0)
    (h : OpRow.covers ⟨n, assembleWord op 0 0 0, assembleWord (.allOnes 5) 0 (.allOnes 8) (.allOnes 8)⟩ w = true) :
    ∃ i, encode i = w := by
  simp only [OpRow.covers_iff_fields, BitVec.and_allOnes] at h
  obtain ⟨hop, -, htok, hdat⟩ := h
  have hw := assembleWord_fields w
  rw [hop, htok, hdat, ← fieldOfPin_pinOfField (fieldIdx w), ← hc] at hw
  exact ⟨_, hw⟩

end

section
variable {w : CmdWord}

theorem exists_encode_of_device_row : ∀ r ∈ opTableDevice, r.covers w = true → ∃ i, encode i = w := by
  simp only [opTableDevice, List.forall_mem_cons]
  exact ⟨exists_encode_of_rowD 0x01 .wrcfg (fun _ => rfl), exists_encode_of_rowD 0x02 .wrpol (fun _ => rfl),
    exists_encode_of_rowD 0x03 .wrout (fun _ => rfl), exists_encode_of_rowZ 0x04 .rdin rfl,
    exists_encode_of_rowZ 0x05 .rdout rfl, exists_encode_of_rowZ 0x06 .rdcfg rfl,
    exists_encode_of_rowZ 0x07 .rdpol rfl, exists_encode_of_rowB 0x08 .setint (fun _ _ => rfl),
    exists_encode_of_rowZ 0x09 .close rfl, fun _ hr => absurd hr List.not_mem_nil⟩

theorem exists_encode_of_pin_row : ∀ r ∈ opTablePin, r.covers w = true → ∃ i, encode i = w := by
  simp only [opTablePin, List.forall_mem_cons]
  exact ⟨exists_encode_of_rowPB 0x0A (fun p b => .pdir p (.ofBit b)) (fun _ _ => by simp [encode]),
    exists_encode_of_rowPB 0x0B .pactlow (fun _ _ => rfl),
    exists_encode_of_rowPB 0x0C (fun p b => .pwrite p (.ofBit b)) (fun _ _ => by simp [encode]),
    exists_encode_of_rowP 0x0D .pread (fun _ => rfl),
    exists_encode_of_rowPT 0x0E (.pwatch · .noEdge ·) (fun _ _ => rfl),
    exists_encode_of_rowPT 0x0E (.pwatch · .rising ·) (fun _ _ => rfl),
    exists_encode_of_rowPT 0x0E (.pwatch · .falling ·) (fun _ _ => rfl),
    exists_encode_of_rowP 0x0F .pstop (fun _ => rfl),
    exists_encode_of_rowPB 0x10 (fun p b => .ppulse p (.ofBit b)) (fun _ _ => by simp [encode]),
    exists_encode_of_rowPB 0x11 (fun p b => .ppull p (.ofBit b)) (fun _ _ => by simp [encode]),
    fun _ hr => absurd hr List.not_mem_nil⟩

theorem exists_encode_of_dispatcher_row : ∀ r ∈ opTableDispatcher, r.covers w = true → ∃ i, encode i = w := by
  simp only [opTableDispatcher, List.forall_mem_cons]
  exact ⟨exists_encode_of_rowPT 0x12 .reg (fun _ _ => rfl), exists_encode_of_rowP 0x13 .unreg (fun _ => rfl),
    exists_encode_of_rowD 0x14 .disp (fun _ => rfl), fun _ hr => absurd hr List.not_mem_nil⟩

/-- A word that a row covers is the word of a command. -/
theorem exists_encode_of_covers {r : OpRow} (hr : r ∈ opTable) (h : r.covers w = true) : ∃ i, encode i = w := by
  rcases List.mem_append.mp hr with hr | hr
  · rcases List.mem_append.mp hr with hr | hr
    · exact exists_encode_of_device_row r hr h
    · exact exists_encode_of_pin_row r hr h
  · exact exists_encode_of_dispatcher_row r hr h

/-- A word decodes to the command whose word it is, and to no other. -/
theorem decode_eq_some_iff {i : Instr} : decode w = some i ↔ encode i = w :=
  ⟨encodeDecodeRoundTrip w i, fun h => h ▸ decodeEncodeRoundTrip i⟩

/-- The words no row covers are the words that do not decode. -/
theorem decode_eq_none_iff_uncovered : decode w = none ↔ ∀ r ∈ opTable, r.covers w = false := by
  constructor
  · intro hnone r hr
    by_contra hc
    obtain ⟨i, hi⟩ := exists_encode_of_covers hr (Bool.eq_true_of_not_eq_false hc)
    cases hnone.symm.trans (decode_eq_some_iff.mpr hi)
  · intro hall
    by_contra hsome
    obtain ⟨i, hi⟩ := Option.ne_none_iff_exists'.mp hsome
    obtain ⟨r, hr, -, hc⟩ := encodeLegal i
    rw [decode_eq_some_iff.mp hi, hall r hr] at hc
    cases hc

end

/-- Settles O3: a command's word is covered by a row of its mnemonic, two rows never cover one word, and a covered word is
a command's word. -/
theorem decoderFollowsTheOpcodeMap : Obligations.DecoderFollowsTheOpcodeMap := by
  unfold Obligations.DecoderFollowsTheOpcodeMap
  refine fun w => ⟨fun i hi => ?_, decode_eq_none_iff_uncovered⟩
  have hw : encode i = w := decode_eq_some_iff.mp hi
  obtain ⟨r, hr, hm, hc⟩ := encodeLegal i
  rw [hw] at hc
  exact ⟨⟨r, ⟨hr, hc⟩, fun q ⟨hq, hqc⟩ => covers_unique hq hr hqc hc⟩, ⟨r, hr, hc, hm⟩, hw⟩

/-! ### Fixed words, and words carried as bytes (R80, R94) -/

/-- Settles O4: eight of the words are those of the named commands; the other two have the reserved edge kind and opcode 0. -/
theorem specWordsDecode : Obligations.SpecWordsDecode :=
  ⟨decodeEncodeRoundTrip (.wrcfg 0xFF), decodeEncodeRoundTrip .rdin, decodeEncodeRoundTrip (.setint 0x11 0x80),
    decodeEncodeRoundTrip (.pdir 3 .input), decodeEncodeRoundTrip (.pwatch 1 .falling 0x21),
    decodeEncodeRoundTrip (.ppulse 2 .high), decodeEncodeRoundTrip (.reg 1 0x21), decodeEncodeRoundTrip (.disp 0x06),
    rfl, rfl⟩

/-- The bytes of a word, before any bytes, are read as the word. -/
theorem decodeBytes_bytesOfWord (w : CmdWord) (rest : List Byte) :
    decodeBytes (bytesOfWord w ++ rest) = (decode w).map (·, rest) := by
  simp only [bytesOfWord, List.cons_append, List.nil_append, decodeBytes, wordOfBytes_bytes]

/-- Settles O6: the three bytes carry the word, which decodes to its command. -/
theorem byteCarriageRoundTrip : Obligations.ByteCarriageRoundTrip := by
  unfold Obligations.ByteCarriageRoundTrip
  intro i rest
  refine ⟨?_, rfl⟩
  rw [decodeBytes_bytesOfWord, decodeEncodeRoundTrip i, Option.map_some]

/-- The opcode table numbers a word by its value. -/
theorem tableWord_toNat (w : CmdWord) : tableWord 24 w.toNat = w := by
  rw [tableWord, Nat.mod_eq_of_lt w.isLt, BitVec.ofNat_toNat, BitVec.setWidth_eq]

/-- The opcode table's number of a command is read back as the command. -/
theorem decodeTableWord_encode (i : Instr) : decodeTableWord 24 (encode i).toNat = some i := by
  rw [decodeTableWord, tableWord_toNat, ← List.append_nil (bytesOfWord _), decodeBytes_bytesOfWord, decodeEncodeRoundTrip i]
  rfl

end Sys2Proof
end

section
/-! PROOFS. The illegal words (30_encoding.md R86), the response word (R88), and what a step does with a command word
(R85, R86; 20_memory.md R58). -/

namespace Sys2Proof

/-! ### When a format accepts no operands (R86) -/

theorem extractLsb'_rest_eq_zero (b : Byte) : b.extractLsb' 1 7 = 0 ↔ b.toNat ≤ 1 := by revert b; decide

theorem EdgeKind.ofDat_eq_none (b : Byte) : EdgeKind.ofDat b = none ↔ 3 ≤ b.toNat := by revert b; decide

section
variable (w : CmdWord)

theorem formatZ_eq_none (c : Instr) : formatZ w c = none ↔ ¬(fieldIdx w = 0 ∧ fieldTok w = 0 ∧ fieldDat w = 0) := by
  simp only [formatZ, ite_eq_right_iff, reduceCtorEq, imp_false]

theorem formatD_eq_none (c : Byte → Instr) : formatD w c = none ↔ ¬(fieldIdx w = 0 ∧ fieldTok w = 0) := by
  simp only [formatD, ite_eq_right_iff, reduceCtorEq, imp_false]

theorem formatB_eq_none (c : Tok → Tok → Instr) : formatB w c = none ↔ fieldIdx w ≠ 0 := by
  simp only [formatB, ite_eq_right_iff, reduceCtorEq, imp_false, ne_eq]

theorem formatP_eq_none (c : PinIdx → Instr) : formatP w c = none ↔ ¬(fieldTok w = 0 ∧ fieldDat w = 0) := by
  simp only [formatP, ite_eq_right_iff, reduceCtorEq, imp_false]

theorem formatPB_eq_none (c : PinIdx → Bool → Instr) :
    formatPB w c = none ↔ ¬(fieldTok w = 0 ∧ (fieldDat w).toNat ≤ 1) := by
  simp only [formatPB, ite_eq_right_iff, reduceCtorEq, imp_false, extractLsb'_rest_eq_zero]

theorem formatPT_eq_none (c : PinIdx → Tok → Instr) : formatPT w c = none ↔ fieldDat w ≠ 0 := by
  simp only [formatPT, ite_eq_right_iff, reduceCtorEq, imp_false, ne_eq]

theorem formatPTE_eq_none (c : PinIdx → EdgeKind → Tok → Instr) : formatPTE w c = none ↔ 3 ≤ (fieldDat w).toNat := by
  rw [formatPTE, Option.map_eq_none_iff, EdgeKind.ofDat_eq_none]

/-- The illegal words, opcode by opcode: no row, or a row whose format does not accept the word. -/
theorem decode_eq_none_iff :
    decode w = none ↔
      (fieldOp w).toNat = 0 ∨ 0x15 ≤ (fieldOp w).toNat ∨
      ((fieldOp w).toNat ∈ [0x01, 0x02, 0x03, 0x14] ∧ ¬(fieldIdx w = 0 ∧ fieldTok w = 0)) ∨
      ((fieldOp w).toNat ∈ [0x04, 0x05, 0x06, 0x07, 0x09] ∧ ¬(fieldIdx w = 0 ∧ fieldTok w = 0 ∧ fieldDat w = 0)) ∨
      ((fieldOp w).toNat = 0x08 ∧ fieldIdx w ≠ 0) ∨
      ((fieldOp w).toNat ∈ [0x0A, 0x0B, 0x0C, 0x10, 0x11] ∧ ¬(fieldTok w = 0 ∧ (fieldDat w).toNat ≤ 1)) ∨
      ((fieldOp w).toNat ∈ [0x0D, 0x0F, 0x13] ∧ ¬(fieldTok w = 0 ∧ fieldDat w = 0)) ∨
      ((fieldOp w).toNat = 0x0E ∧ 3 ≤ (fieldDat w).toNat) ∨
      ((fieldOp w).toNat = 0x12 ∧ fieldDat w ≠ 0) := by
  have hop : (fieldOp w).toNat < 32 := (fieldOp w).isLt
  unfold decode
  generalize (fieldOp w).toNat = op at hop ⊢
  interval_cases op <;>
    simp [formatZ_eq_none, formatD_eq_none, formatB_eq_none, formatP_eq_none, formatPB_eq_none, formatPT_eq_none,
      formatPTE_eq_none]

end

end Sys2Proof

namespace Sys2Proof.Machine

/-! ### The response word (R88, R89) -/

theorem responseWord_status (st : Status) (v : Byte) : (responseWord st v).extractLsb' 12 4 = st.code := by
  apply BitVec.eq_of_getLsbD_eq
  intro i hi
  interval_cases i <;> simp [responseWord]

theorem responseWord_gap (st : Status) (v : Byte) : (responseWord st v).extractLsb' 8 4 = 0 := by
  apply BitVec.eq_of_getLsbD_eq
  intro i hi
  interval_cases i <;> simp [responseWord]

theorem responseWord_value (st : Status) (v : Byte) : (responseWord st v).extractLsb' 0 8 = v := by
  apply BitVec.eq_of_getLsbD_eq
  intro i hi
  interval_cases i <;> simp [responseWord]

/-- Settles O7: each field is read back bit by bit, and the codes are those of the definition. -/
theorem responseWordLayout : Obligations.ResponseWordLayout :=
  ⟨fun st v => ⟨responseWord_status st v, responseWord_gap st v, responseWord_value st v⟩, rfl⟩

/-! ### A step whose move is a command word (20_memory.md R58) -/

section
variable {s : State} {p : Port} {w : CmdWord} {ms : List Move}

theorem step_command (hm : s.env.moves = .command p w :: ms) : step s = issue exec p w (s.withMoves ms) := by
  simp only [step, stepWith, hm, runMove]

/-- The moves to come do not matter to who may issue a command. -/
theorem mayCommand_withMoves : (s.withMoves ms).mayCommand p = s.mayCommand p := rfl

theorem step_legal {i : Instr} (hm : s.env.moves = .command p w :: ms) (hmay : s.mayCommand p = true)
    (hd : decode w = some i) : step s = exec i ((s.withMoves ms).onPort p) := by
  rw [step_command hm, issue, mayCommand_withMoves, if_pos hmay, hd]

theorem step_illegal (hm : s.env.moves = .command p w :: ms) (hmay : s.mayCommand p = true) (hd : decode w = none) :
    step s = .next (((s.withMoves ms).onPort p).raise .illegal) := by
  rw [step_command hm, issue, mayCommand_withMoves, if_pos hmay, hd]

end

/-- Settles O5: the illegal words are those of `decode_eq_none_iff`, and the step only delivers the response. -/
theorem illegalWordsAreAnsweredAndDoNothing : Obligations.IllegalWordsAreAnsweredAndDoNothing := by
  unfold Obligations.IllegalWordsAreAnsweredAndDoNothing
  refine ⟨decode_eq_none_iff, fun p w s ms hm hmay hd => ⟨_, step_illegal hm hmay hd, rfl, ?_, ?_⟩⟩
  · exact ⟨(List.append_nil _).symm, (List.append_nil _).symm, (List.append_nil _).symm, rfl⟩
  · exact ⟨rfl, rfl, rfl, rfl, rfl, rfl⟩

/-- Settles O55: `step_legal` is the statement. -/
theorem stepRunsTheDecodedCommand : Obligations.StepRunsTheDecodedCommand :=
  fun _ _ _ _ _ hm hmay hd => step_legal hm hmay hd

/-- Port S is free where a command is placed, so it may issue it. -/
theorem mayCommand_placeCommand (w : CmdWord) (s : State) : (placeCommand w s).mayCommand .portS = true := rfl

/-- Settles O56: the placed word is the next move, on a port that may issue it. -/
theorem placedWordRunsNext : Obligations.PlacedWordRunsNext := by
  unfold Obligations.PlacedWordRunsNext
  refine fun i s => ⟨decodeTableWord_encode i, ?_⟩
  have hd : decode (tableWord 24 (encode i).toNat) = some i := by
    rw [tableWord_toNat, decodeEncodeRoundTrip i]
  exact step_legal (s := s.withFetchWord 24 (encode i).toNat) rfl (mayCommand_placeCommand _ s) hd

/-! ### PWATCH (30_encoding.md R95, 41_digital_pin.md R137) -/

/-- Settles O17: both sides write the merged byte to the configuration register and set the entry; only the responses
differ. -/
theorem pwatchIsDirectionThenRegister : Obligations.PwatchIsDirectionThenRegister := by
  unfold Obligations.PwatchIsDirectionThenRegister
  intro i e h v s hs hr
  have hpwatch : exec (.pwatch i e h) s = .next (watchCommand i h s) := guardBus_answered hs
  have hpdir : exec (.pdir i .input) s = .next (mergeCommand .cfg i true s) := guardBus_answered hs
  refine ⟨_, _, _, hpwatch, hpdir, rfl, ?_⟩
  rw [watchCommand, mergeCommand, writeCommand_ok hr, deviceWrite_ok hr]
  exact ⟨rfl, rfl⟩

end Sys2Proof.Machine
end

section
/-! PROOFS. The Register Cache commands (40_register_cache.md): what each operation they are made of takes from the
outside and adds to the histories, one rule each, and the commands' contracts composed of these rules. -/

namespace Sys2Proof.Machine

/-- What the histories gain and what of the outside's answers is used up, together. -/
def Outside (s t : State) (txns : List BusTxn) (calls : List (XPinCall × XPinReply)) (evs : List Event)
    (rsps : List Response) (nb nx nt : Nat) : Prop :=
  Grew s t txns calls evs rsps ∧ Used s t nb nx nt

/-! ### One rule for each operation -/

section
variable {s t u : State} {txns txns' : List BusTxn} {calls calls' : List (XPinCall × XPinReply)}
  {evs evs' : List Event} {rsps rsps' : List Response} {nb nb' nx nx' nt nt' : Nat}

theorem Grew.trans (h : Grew s t txns calls evs rsps) (h' : Grew t u txns' calls' evs' rsps') :
    Grew s u (txns ++ txns') (calls ++ calls') (evs ++ evs') (rsps ++ rsps') where
  bus := by rw [h'.bus, h.bus, List.append_assoc]
  xpin := by rw [h'.xpin, h.xpin, List.append_assoc]
  events := by rw [h'.events, h.events, List.append_assoc]
  responses := by rw [h'.responses, h.responses, List.append_assoc]

theorem Used.trans (h : Used s t nb nx nt) (h' : Used t u nb' nx' nt') : Used s u (nb + nb') (nx + nx') (nt + nt') where
  mode := h'.mode.trans h.mode
  turn := h'.turn.trans h.turn
  moves := h'.moves.trans h.moves
  bus := by rw [h'.bus, h.bus, List.drop_drop]
  xpin := by rw [h'.xpin, h.xpin, List.drop_drop]
  clock := by rw [h'.clock, h.clock, List.drop_drop]

theorem Outside.trans (h : Outside s t txns calls evs rsps nb nx nt)
    (h' : Outside t u txns' calls' evs' rsps' nb' nx' nt') :
    Outside s u (txns ++ txns') (calls ++ calls') (evs ++ evs') (rsps ++ rsps') (nb + nb') (nx + nx') (nt + nt') :=
  have ⟨hgrew, hused⟩ := h
  have ⟨hgrew', hused'⟩ := h'
  ⟨hgrew.trans hgrew', hused.trans hused'⟩

end

/-- A change of the record is no business of the outside. -/
theorem outside_record (s : State) (b : Block) : Outside s { s with block := b } [] [] [] [] 0 0 0 :=
  ⟨⟨by simp, by simp, by simp, by simp⟩, ⟨rfl, rfl, rfl, rfl, rfl, rfl⟩⟩

theorem outside_respond (s : State) (st : Status) (v : Byte) :
    Outside s (s.respond st v) [] [] [] [⟨s.turn, responseWord st v, none⟩] 0 0 0 :=
  ⟨⟨by simp, by simp, by simp, by simp⟩, ⟨rfl, rfl, rfl, rfl, rfl, rfl⟩⟩

theorem outside_raise (s : State) (r : Raise) :
    Outside s (s.raise r) [] [] [] [⟨s.turn, responseWord r.status r.value, none⟩] 0 0 0 :=
  outside_respond s r.status r.value

theorem outside_logBus (s : State) (x : BusTxn) : Outside s (s.tookBus.logBus x) [x] [] [] [] 1 0 0 :=
  ⟨⟨by simp, by simp, by simp, by simp⟩, ⟨rfl, rfl, rfl, List.drop_one.symm, rfl, rfl⟩⟩

theorem outside_logXPin (s : State) (c : XPinCall) (r : XPinReply) :
    Outside s (s.tookXPin.logXPin c r) [] [(c, r)] [] [] 0 1 0 :=
  ⟨⟨by simp, by simp, by simp, by simp⟩, ⟨rfl, rfl, rfl, rfl, List.drop_one.symm, rfl⟩⟩

/-! ### The write contract (R108) and the read contract (R109) -/

/-- A command that is `writeCommand r b` follows the write contract for register `r`. -/
theorem writesRegister_of_writeCommand {i : Instr} {r : Reg} {b : Byte} {s : State}
    (hi : exec i s = guardBus s (writeCommand r b s)) (hs : s.busSilent = false) :
    WritesRegister i r b (s.block.cache.set r b) s := by
  have hrun : exec i s = .next (writeCommand r b s) := hi.trans (guardBus_answered hs)
  constructor
  · intro v hv
    rw [writeCommand_ok hv] at hrun
    exact ⟨_, hrun, rfl, ((outside_logBus s _).trans (outside_record _ _)).trans (outside_respond _ _ _)⟩
  · intro e he
    rw [writeCommand_err he] at hrun
    exact ⟨_, hrun, rfl, (outside_logBus s _).trans (outside_raise _ _)⟩

/-- A command that is `readCommand r` follows the read contract for register `r` and answers the byte read. -/
theorem readsRegister_of_readCommand {i : Instr} {r : Reg} {s : State}
    (hi : exec i s = guardBus s (readCommand r s)) (hs : s.busSilent = false) :
    ReadsRegister i r (s.block.cache.set r) id s := by
  have hrun : exec i s = .next (readCommand r s) := hi.trans (guardBus_answered hs)
  constructor
  · intro b hb
    rw [readCommand_ok hb] at hrun
    exact ⟨_, hrun, rfl, ((outside_logBus s _).trans (outside_record _ _)).trans (outside_respond _ _ _)⟩
  · intro e he
    rw [readCommand_err he] at hrun
    exact ⟨_, hrun, rfl, (outside_logBus s _).trans (outside_raise _ _)⟩

/-- Settles O10: each of the three commands is `writeCommand` on its own register. -/
theorem registerWritesFollowTheWriteContract : Obligations.RegisterWritesFollowTheWriteContract :=
  fun _ _ hs => ⟨writesRegister_of_writeCommand rfl hs, writesRegister_of_writeCommand rfl hs,
    writesRegister_of_writeCommand rfl hs⟩

/-- Settles O11: each of the four commands is `readCommand` on its own register. -/
theorem registerReadsFollowTheReadContract : Obligations.RegisterReadsFollowTheReadContract :=
  fun _ hs => ⟨readsRegister_of_readCommand rfl hs, readsRegister_of_readCommand rfl hs,
    readsRegister_of_readCommand rfl hs, readsRegister_of_readCommand rfl hs⟩

/-! ### SETINT (R117) and CLOSE (R119) -/

section
variable {s : State} {xp h : Tok}

theorem exec_setint_bound (hb : s.block.intBound = true) : exec (.setint xp h) s = .next (s.raise .configConflict) :=
  if_pos hb

/-- Recording a call leaves the capability's next answer as it was. -/
@[simp] theorem logXPin_xpinReply (c : XPinCall) (r : XPinReply) : (s.logXPin c r).xpinReply = s.xpinReply := rfl

@[simp] theorem logXPin_xpinSilent (c : XPinCall) (r : XPinReply) : (s.logXPin c r).xpinSilent = s.xpinSilent := rfl

/-- With no pin bound and the first call answered, SETINT comes to `setintFinish`, unless the second call hangs. -/
theorem exec_setint_unbound {r : XPinReply} (hb : s.block.intBound = false) (hx : s.xpinSilent = false)
    (hr : s.xpinReply = r) (hy : r = .ok → s.tookXPin.xpinSilent = false) :
    exec (.setint xp h) s = .next (setintFinish xp h r (s.tookXPin.logXPin (.setDirectionIn xp) r)) := by
  have hgoes : ¬(s.tookXPin.xpinSilent = true ∧ r = .ok) := fun ⟨hsilent, hok⟩ => by simp [hy hok] at hsilent
  simp [exec, execSetint, hb, hx, xpinCall, hr, hgoes]

theorem setintFinish_ok_ok (hr : s.xpinReply = .ok) :
    setintFinish xp h .ok s = ((s.tookXPin.logXPin (.watchFalling xp) .ok).bindInt xp h).respond .ok 0x00 := by
  simp only [setintFinish, xpinCall, hr]

theorem setintFinish_ok_fail (hr : s.xpinReply = .fail) :
    setintFinish xp h .ok s = (s.tookXPin.logXPin (.watchFalling xp) .fail).raise .xpinError := by
  simp only [setintFinish, xpinCall, hr]

theorem exec_close_unbound (hb : s.block.intBound = false) : exec .close s = .next (s.respond .ok 0x00) := by
  simp [exec, execClose, hb]

theorem exec_close_bound (hb : s.block.intBound = true) (hx : s.xpinSilent = false) :
    exec .close s = .next (closeBound s) := by
  simp [exec, execClose, hb, hx]

theorem closeBound_ok (hr : s.xpinReply = .ok) :
    closeBound s = (s.tookXPin.logXPin (.release s.block.intPin) .ok).unbindInt.respond .ok 0x00 := by
  simp only [closeBound, xpinCall, hr]

theorem closeBound_fail (hr : s.xpinReply = .fail) :
    closeBound s = (s.tookXPin.logXPin (.release s.block.intPin) .fail).raise .xpinError := by
  simp only [closeBound, xpinCall, hr]

end

/-- Settles O12: the conflict, the failure of either call, and the binding, each the composition of its operations. -/
theorem setintBindsAfterBothCalls : Obligations.SetintBindsAfterBothCalls := by
  unfold Obligations.SetintBindsAfterBothCalls
  intro xp h s
  refine ⟨fun hb => ?conflict, fun hb hx hr => ?firstFails, fun hb hx hr hy hr2 => ?secondFails,
    fun hb hx hr hy hr2 => ?binds⟩
  case conflict => exact ⟨_, exec_setint_bound hb, rfl, outside_raise _ _⟩
  case firstFails =>
    exact ⟨_, exec_setint_unbound hb hx hr nofun, rfl, (outside_logXPin s _ _).trans (outside_raise _ .xpinError)⟩
  case secondFails =>
    have hrun := exec_setint_unbound (xp := xp) (h := h) hb hx hr fun _ => hy
    rw [setintFinish_ok_fail ((logXPin_xpinReply ..).trans hr2)] at hrun
    exact ⟨_, hrun, rfl, ((outside_logXPin s _ _).trans (outside_logXPin _ _ _)).trans (outside_raise _ _)⟩
  case binds =>
    have hrun := exec_setint_unbound (xp := xp) (h := h) hb hx hr fun _ => hy
    rw [setintFinish_ok_ok ((logXPin_xpinReply ..).trans hr2)] at hrun
    exact ⟨_, hrun, rfl, (((outside_logXPin s _ _).trans (outside_logXPin _ _ _)).trans (outside_record _ _)).trans
      (outside_respond _ _ _)⟩

/-- Settles O13: nothing bound, released, or the release failed. -/
theorem closeReleasesTheBinding : Obligations.CloseReleasesTheBinding := by
  unfold Obligations.CloseReleasesTheBinding
  refine fun s => ⟨fun hb => ?unbound, fun hb hx hr => ?released, fun hb hx hr => ?releaseFails⟩
  case unbound => exact ⟨_, exec_close_unbound hb, rfl, outside_respond _ _ _⟩
  case released =>
    have hrun := exec_close_bound hb hx
    rw [closeBound_ok hr] at hrun
    exact ⟨_, hrun, rfl, ((outside_logXPin s _ _).trans (outside_record _ _)).trans (outside_respond _ _ _)⟩
  case releaseFails =>
    have hrun := exec_close_bound hb hx
    rw [closeBound_fail hr] at hrun
    exact ⟨_, hrun, rfl, (outside_logXPin s _ _).trans (outside_raise _ _)⟩

end Sys2Proof.Machine
end

section
/-! PROOFS. The Digital Pin commands of one atomic step (41_digital_pin.md R131 to R141): the merge against the cache, the
fresh input byte, the watcher's entry; and PDIR read back on an echoing bus (95_test_vectors.md T3). -/

namespace Sys2Proof.Machine

/-! ### The merged writes (R131 to R134) -/

theorem direction_bit_eq (d : Direction) : d.bit = decide (d = .input) := by cases d <;> rfl

/-- A command that is `mergeCommand r i v` writes the byte whose bit `i` is `v` and whose other bits are the cached
register's, and reads nothing. -/
theorem writesRegister_of_mergeCommand {c : Instr} {r : Reg} {i : PinIdx} {v : Bool} {s : State}
    (hc : exec c s = guardBus s (mergeCommand r i v s)) (hs : s.busSilent = false) :
    ∃ n : Byte, (∀ k < 8, n.getLsbD k = if k = i.val then v else (s.x r).getLsbD k) ∧
      WritesRegister c r n (s.block.cache.set r n) s :=
  ⟨mergeBit (s.x r) i v, fun _ hk => getLsbD_mergeBit _ _ _ hk, writesRegister_of_writeCommand hc hs⟩

/-- Settles O9: each of the three commands is `mergeCommand` on its own register. -/
theorem pinWritesMergeAgainstTheCache : Obligations.PinWritesMergeAgainstTheCache := by
  unfold Obligations.PinWritesMergeAgainstTheCache
  refine fun i s hs => ⟨fun d => ?pdir, fun a => ?pactlow, fun l => ?pwrite⟩
  case pdir => rw [← direction_bit_eq]; exact writesRegister_of_mergeCommand rfl hs
  case pactlow => exact writesRegister_of_mergeCommand rfl hs
  case pwrite => rw [← level_bit_eq]; exact writesRegister_of_mergeCommand rfl hs

/-- Where the bus answers, the merged byte is what the cache holds afterwards. -/
theorem mergeCommand_x {r : Reg} {i : PinIdx} {v : Bool} {b : Byte} {s : State} (hr : s.busReply = .ok b) :
    (mergeCommand r i v s).x r = mergeBit (s.x r) i v := by
  rw [mergeCommand, writeCommand_ok hr]
  simp [State.x]

/-- Settles O52: PDIR leaves the merged byte in the cache, and RDCFG answers that byte where the bus echoes it. -/
theorem directionReadsBack : Obligations.DirectionReadsBack := by
  unfold Obligations.DirectionReadsBack
  intro i d v s t u hv ht hecho hu
  obtain ⟨-, rfl⟩ := guardBus_eq_next ht
  obtain ⟨-, rfl⟩ := guardBus_eq_next hu
  have hcfg := mergeCommand_x (r := .cfg) (i := i) (v := d.bit) hv
  refine ⟨(mergeCommand .cfg i d.bit s).x .cfg, fun k hk => ?_, ?_, ?_⟩
  · rw [hcfg, getLsbD_mergeBit _ _ _ hk, direction_bit_eq]
  · rw [readCommand_ok hecho]; rfl
  · rw [readCommand_ok hecho]; rfl

/-! ### PREAD (R136) -/

theorem pinHigh_eq_getLsbD (b : Byte) (i : PinIdx) : pinHigh b i = b.getLsbD i.val := by
  rw [pinHigh, bitMask, ← BitVec.twoPow_eq, BitVec.and_twoPow]
  cases b.getLsbD i.val with
  | false => rfl
  | true => revert i; decide

theorem pinLevel_eq_iff {b : Byte} {i : PinIdx} {l : Level} : pinLevel b i = l ↔ b.getLsbD i.val = decide (l = .high) := by
  rw [pinLevel, pinHigh_eq_getLsbD]
  cases b.getLsbD i.val <;> cases l <;> decide

theorem levelValue_pinLevel (b : Byte) (i : PinIdx) :
    levelValue (pinLevel b i) = if b.getLsbD i.val then 0x01 else 0x00 := by
  rw [pinLevel, pinHigh_eq_getLsbD]
  cases b.getLsbD i.val <;> rfl

theorem preadCommand_ok {i : PinIdx} {b : Byte} {s : State} (h : s.busReply = .ok b) :
    preadCommand i s = ((s.tookBus.logBus (.read s.block.address .inp (.ok b))).setX .inp b).respond .ok
      (if b.getLsbD i.val then 0x01 else 0x00) := by
  simp only [preadCommand, deviceRead_ok h, levelValue_pinLevel]

theorem preadCommand_err {i : PinIdx} {e : Byte} {s : State} (h : s.busReply = .err e) :
    preadCommand i s = (s.tookBus.logBus (.read s.block.address .inp (.err e))).raise (.busError e) := by
  simp only [preadCommand, deviceRead_err h]

/-- Settles O14: the byte read is cached whole, and its bit is the level answered. -/
theorem preadTestsAFreshInputByte : Obligations.PreadTestsAFreshInputByte := by
  unfold Obligations.PreadTestsAFreshInputByte
  intro i s hs
  have hrun : exec (.pread i) s = .next (preadCommand i s) := guardBus_answered hs
  constructor
  · intro b hb
    rw [preadCommand_ok hb] at hrun
    exact ⟨_, hrun, rfl, ((outside_logBus s _).trans (outside_record _ _)).trans (outside_respond _ _ _)⟩
  · intro e he
    rw [preadCommand_err he] at hrun
    exact ⟨_, hrun, rfl, (outside_logBus s _).trans (outside_raise _ _)⟩

/-! ### PWATCH (R137, R139), PSTOP and UNREG (R138, R161), PPULL (R141) -/

/-- Settles O15: the merged configuration write first, the entry only in the branch where it succeeded. -/
theorem pwatchForcesInputThenRegisters : Obligations.PwatchForcesInputThenRegisters := by
  unfold Obligations.PwatchForcesInputThenRegisters
  intro i e h s hs
  have hrun : exec (.pwatch i e h) s = .next (watchCommand i h s) := guardBus_answered hs
  refine ⟨mergeBit (s.x .cfg) i true, fun k hk => getLsbD_mergeBit _ _ _ hk, fun v hv => ?_, fun y hy => ?_⟩
  · rw [watchCommand, deviceWrite_ok hv] at hrun
    exact ⟨_, hrun, rfl, fun j => watch_get_set _ i j _,
      (((outside_logBus s _).trans (outside_record _ _)).trans (outside_record _ _)).trans (outside_respond _ _ _)⟩
  · rw [watchCommand, deviceWrite_err hy] at hrun
    exact ⟨_, hrun, rfl, (outside_logBus s _).trans (outside_raise _ _)⟩

/-- Settles O16: PWATCH's meaning has no use of its edge kind. -/
theorem edgeKindChangesNothing : Obligations.EdgeKindChangesNothing := fun _ _ _ _ _ => rfl

/-- Settles O18: both commands are `clearWatch`, whose effect on the record depends on the dispatch mode. -/
theorem stopAndUnregisterRemoveOneEntry : Obligations.StopAndUnregisterRemoveOneEntry := by
  unfold Obligations.StopAndUnregisterRemoveOneEntry
  refine fun i s => ⟨rfl, _, rfl, fun j => ?entry, fun hm => ?snapshot, fun hm => ?live,
    (outside_record s _).trans (outside_respond (s.clearWatch i) _ _)⟩
  case entry => rw [respond_block, clearWatch_watch, watch_get_set]
  case snapshot => rw [respond_block, clearWatch_watch, clearWatch_snapshot s i hm]
  case live => rw [respond_block, clearWatch_watch, clearWatch_live s i hm]; rfl

/-- Settles O19: PPULL is `raise` and nothing else. -/
theorem ppullIsAlwaysUnsupported : Obligations.PpullIsAlwaysUnsupported :=
  fun _ _ s => ⟨_, rfl, rfl, outside_raise s .notSupported⟩

end Sys2Proof.Machine
end

section
/-! PROOFS. PPULSE step by step (41_digital_pin.md R140): the port it holds, a failed poll, and its issuing step. -/

namespace Sys2Proof.Machine

/-! ### The port it holds (D25) -/

theorem handlerRunning_setPulse (p q : Port) (v : Pulse) (s : State) :
    (s.setPulse p v).handlerRunning q = s.handlerRunning q := by
  simp only [State.handlerRunning, setPulse_disp, setPulse_svc]

/-- Settles O24: a port's pulse is read by that port's tests only, and both ask it to be idle. -/
theorem ppulseHoldsOnlyItsPort : Obligations.PpulseHoldsOnlyItsPort := by
  unfold Obligations.PpulseHoldsOnlyItsPort
  refine fun p q v s => ⟨fun hqp => ?other, fun hv => ?own⟩
  case other =>
    simp only [State.mayCommand, State.mayReturn, setPulse_pulse_of_ne s p q v hqp, handlerRunning_setPulse, setPulse_dispS,
      and_self]
  case own => simp [State.mayCommand, State.mayReturn, hv]

/-! ### One poll -/

theorem outside_setPulse (s : State) (p : Port) (v : Pulse) : Outside s (s.setPulse p v) [] [] [] [] 0 0 0 := by
  cases p <;> exact outside_record s _

theorem outside_respondOn (s : State) (p : Port) (st : Status) (v : Byte) (d : Option Nat) :
    Outside s (s.respondOn p st v d) [] [] [] [⟨p, responseWord st v, d⟩] 0 0 0 :=
  ⟨⟨by simp, by simp, by simp, by simp⟩, ⟨rfl, rfl, rfl, rfl, rfl, rfl⟩⟩

theorem outside_tookTime (s : State) : Outside s s.tookTime [] [] [] [] 0 0 1 :=
  ⟨⟨by simp, by simp, by simp, by simp⟩, ⟨rfl, rfl, rfl, rfl, rfl, List.drop_one.symm⟩⟩

/-- What the histories gain does not depend on the rest of the state they start in. -/
theorem Grew.of_hist {s u t : State} {txns : List BusTxn} {calls : List (XPinCall × XPinReply)} {evs : List Event}
    {rsps : List Response} (h : Grew u t txns calls evs rsps) (hu : u.hist = s.hist) : Grew s t txns calls evs rsps :=
  ⟨hu ▸ h.bus, hu ▸ h.xpin, hu ▸ h.events, hu ▸ h.responses⟩

/-- Only the two phases of PPULSE differ once one of them is set. -/
theorem setPulse_block (s : State) (p : Port) (v : Pulse) :
    (s.setPulse p v).block =
      { s.block with pulseS := (s.setPulse p v).block.pulseS, pulseA := (s.setPulse p v).block.pulseA } := by
  cases p <;> rfl

theorem setPulse_self {s : State} {p : Port} {v : Pulse} (h : s.block.pulse p = v) : s.setPulse p v = s := by
  subst h
  cases p <;> rfl

/-- `s` after a read of the input register that the bus answers with `b`. -/
def State.readInput (b : Byte) (s : State) : State :=
  (s.tookBus.logBus (.read s.block.address .inp (.ok b))).setX .inp b

theorem outside_readInput (s : State) (b : Byte) :
    Outside s (s.readInput b) [.read s.block.address .inp (.ok b)] [] [] [] 1 0 0 :=
  (outside_logBus s _).trans (outside_record _ _)

section
variable {s : State} {p : Port} {i : PinIdx} {l : Level} {b e : Byte}

theorem deviceRead_inp_ok (hr : s.busReply = .ok b) : deviceRead .inp s = (.ok b, s.readInput b) := deviceRead_ok hr

theorem drainPoll_ok (hr : s.busReply = .ok b) :
    drainPoll p i l s = (s.readInput b).setPulse p (if pinLevel b i = l then .drain i l else .waitStart i l) := by
  simp only [drainPoll, deviceRead_inp_ok hr]

/-- `s` after a poll on port `p` that the bus answers with the error `e`: the same in every phase. -/
def State.pollError (p : Port) (e : Byte) (s : State) : State :=
  pollFailed p e (s.tookBus.logBus (.read s.block.address .inp (.err e)))

theorem drainPoll_err (hr : s.busReply = .err e) : drainPoll p i l s = s.pollError p e := by
  simp only [drainPoll, deviceRead_err hr, State.pollError]

theorem poll_err (hp : s.block.pulse p ≠ .idle) (hs : s.busSilent = false) (hr : s.busReply = .err e) :
    poll p s = .next (s.pollError p e) := by
  unfold poll
  cases hv : s.block.pulse p with
  | idle => exact absurd hv hp
  | drain i l => simp only [guardBus_answered hs, drainPoll_err hr]
  | waitStart i l => simp only [guardBus_answered hs, startPoll, deviceRead_err hr, State.pollError]
  | timing i l t0 => simp only [hs, timingPoll, deviceRead_err hr, State.pollError]; rfl

/-- A grant to a port whose PPULSE is in progress is a poll. -/
theorem step_poll {k : Nat} {ms : List Move} (hm : s.env.moves = .advance p k :: ms) (hp : s.block.pulse p ≠ .idle) :
    step s = poll p (s.withMoves ms) := by
  simp only [step, stepWith, hm, runMove]
  exact advance_polling hp

end

/-! ### A failed poll (R140, R206) -/

@[simp] theorem pollError_pulse_same (s : State) (p : Port) (e : Byte) : (s.pollError p e).block.pulse p = .idle :=
  setPulse_pulse_same _ p .idle

theorem pollError_pulse_of_ne (s : State) (p q : Port) (e : Byte) (h : q ≠ p) :
    (s.pollError p e).block.pulse q = s.block.pulse q :=
  setPulse_pulse_of_ne _ p q .idle h

theorem pollError_block (s : State) (p : Port) (e : Byte) :
    (s.pollError p e).block =
      { s.block with pulseS := (s.pollError p e).block.pulseS, pulseA := (s.pollError p e).block.pulseA } :=
  setPulse_block _ p .idle

theorem outside_pollError (s : State) (p : Port) (e : Byte) :
    Outside s (s.pollError p e) [.read s.block.address .inp (.err e)] [] [] [⟨p, responseWord .errBus e, none⟩] 1 0 0 :=
  ((outside_logBus s _).trans (outside_setPulse _ p .idle)).trans (outside_respondOn _ p .errBus e none)

/-- Settles O23: in each phase a failed poll is `pollError`. -/
theorem failedPollEndsThePulse : Obligations.FailedPollEndsThePulse := by
  unfold Obligations.FailedPollEndsThePulse
  intro p k e s ms hm hp hs hr
  have hstep : step s = .next ((s.withMoves ms).pollError p e) :=
    (step_poll hm hp).trans (poll_err (s := s.withMoves ms) hp hs hr)
  obtain ⟨hgrew, hused⟩ := outside_pollError (s.withMoves ms) p e
  exact ⟨_, hstep, pollError_pulse_same _ p e, fun q hq => pollError_pulse_of_ne _ p q e hq, pollError_block _ p e,
    hgrew.of_hist rfl, hused⟩

/-! ### The issuing step (R140) -/

/-- Settles O20: the issuing step is a drain poll on the issuing port. -/
theorem ppulseStartsByDraining : Obligations.PpulseStartsByDraining := by
  unfold Obligations.PpulseStartsByDraining
  intro i l s hs
  have hrun : exec (.ppulse i l) s = .next (drainPoll s.turn i l s) := guardBus_answered hs
  constructor
  · intro b hb
    rw [drainPoll_ok hb] at hrun
    refine ⟨_, hrun, setPulse_cache _ _ _, ?phase, fun q hq => setPulse_pulse_of_ne _ _ q _ hq, ?frame,
      (outside_readInput s b).trans (outside_setPulse _ _ _)⟩
    case phase => simp only [setPulse_pulse_same, pinLevel_eq_iff]
    case frame => rw [setPulse_cache]; exact setPulse_block (s.readInput b) _ _
  · intro e he
    rw [drainPoll_err he] at hrun
    exact ⟨_, hrun, pollError_pulse_same _ _ e, fun q hq => pollError_pulse_of_ne _ _ q e hq, pollError_block _ _ e,
      outside_pollError s _ e⟩

end Sys2Proof.Machine
end

section
/-! PROOFS. The run of a whole PPULSE (41_digital_pin.md R140): every step, the issuing one included, is one poll, and the
polls of a phase compose. -/

namespace Sys2Proof.Machine

/-! ### The issuing step as a poll -/

section
variable {s : State} {p : Port} {i : PinIdx} {l : Level}

theorem setPulse_busSilent (v : Pulse) : (s.setPulse p v).busSilent = s.busSilent := by cases p <;> rfl

theorem setPulse_busReply (v : Pulse) : (s.setPulse p v).busReply = s.busReply := by cases p <;> rfl

/-- A drain poll does not read its port's phase. -/
theorem drainPoll_setPulse (v : Pulse) : drainPoll p i l (s.setPulse p v) = drainPoll p i l s := by
  have hreply := setPulse_busReply (s := s) (p := p) v
  cases hr : s.busReply with
  | ok b => rw [drainPoll_ok hr, drainPoll_ok (hreply.trans hr)]; cases p <;> rfl
  | err e => rw [drainPoll_err hr, drainPoll_err (hreply.trans hr)]; cases p <;> rfl

/-- The poll of a port that drains is the step PPULSE is issued with. -/
theorem poll_setPulse_drain : poll p (s.setPulse p (.drain i l)) = guardBus s (drainPoll p i l s) := by
  simp only [poll, setPulse_pulse_same, drainPoll_setPulse, guardBus, setPulse_busSilent]

/-- `s` as it would be if its port `p` were already draining, with a poll and then `ms` as the moves to come. -/
def State.draining (p : Port) (i : PinIdx) (l : Level) (ms : List Move) (s : State) : State :=
  ((s.withMoves (.advance p 0 :: ms)).onPort p).setPulse p (.drain i l)

theorem draining_env (ms : List Move) : (s.draining p i l ms).env = { s.env with moves := .advance p 0 :: ms } := by
  cases p <;> rfl

theorem draining_hist (ms : List Move) : (s.draining p i l ms).hist = s.hist := by cases p <;> rfl

theorem draining_address (ms : List Move) : (s.draining p i l ms).block.address = s.block.address := by cases p <;> rfl

theorem draining_pulse (ms : List Move) : (s.draining p i l ms).block.pulse p = .drain i l := by
  rw [State.draining, setPulse_pulse_same]

/-- Once the PPULSE is over, nothing of the record tells that it was in progress. -/
theorem draining_done (ms : List Move) (b : Byte) (hidle : s.block.pulse p = .idle) :
    (((s.draining p i l ms).setX .inp b).setPulse p .idle).block = (s.setX .inp b).block := by
  have hself : (s.setX .inp b).setPulse p .idle = s.setX .inp b := setPulse_self (by cases p <;> exact hidle)
  rw [← hself]
  cases p <;> rfl

theorem pulse_idle_of_mayCommand (hmay : s.mayCommand p = true) : s.block.pulse p = .idle := by
  rw [State.mayCommand, Bool.and_eq_true] at hmay
  exact beq_iff_eq.mp hmay.1

/-- PPULSE's issuing step is the first poll of a port that drains (R140; notes/assumptions/27.md). -/
theorem step_ppulse {ms : List Move} (hm : s.env.moves = .command p (encode (.ppulse i l)) :: ms)
    (hmay : s.mayCommand p = true) : step s = step (s.draining p i l ms) := by
  have hnext : (s.draining p i l ms).env.moves = .advance p 0 :: ms := by rw [draining_env]
  have hpulse : (s.draining p i l ms).block.pulse p ≠ .idle := by rw [draining_pulse]; nofun
  have hmoves : (s.draining p i l ms).withMoves ms = ((s.withMoves ms).onPort p).setPulse p (.drain i l) := by
    cases p <;> rfl
  rw [step_legal hm hmay (decodeEncodeRoundTrip _), step_poll hnext hpulse, hmoves, poll_setPulse_drain]
  rfl

end

/-! ### Successful polls, phase by phase -/

/-- The input byte `b` leaves a PPULSE in phase `v`: the awaited level is not there yet. -/
def Pulse.Waits (b : Byte) : Pulse → Prop
  | .idle => False
  | .drain i l => pinLevel b i = l
  | .waitStart i l => pinLevel b i ≠ l
  | .timing i l _ => pinLevel b i = l

section
variable {s : State} {p : Port} {i : PinIdx} {l : Level} {b : Byte} {t0 t1 : Nat} {cs : List Nat}

theorem poll_of_waits {v : Pulse} (hs : s.busSilent = false) (hr : s.busReply = .ok b) (hv : s.block.pulse p = v)
    (hw : v.Waits b) : poll p s = .next (s.readInput b) := by
  have hself : (s.readInput b).setPulse p v = s.readInput b := setPulse_self (by cases p <;> exact hv)
  cases v with
  | idle => exact hw.elim
  | drain i l =>
    have hb : pinLevel b i = l := hw
    simp only [poll, hv, guardBus_answered hs, drainPoll_ok hr, if_pos hb, hself]
  | waitStart i l => simp only [poll, hv, guardBus_answered hs, startPoll, deviceRead_inp_ok hr, if_neg hw]
  | timing i l t0 =>
    have hb : pinLevel b i = l := hw
    simp only [poll, hv, hs, timingPoll, deviceRead_inp_ok hr, if_pos hb]
    rfl

theorem poll_drained (hs : s.busSilent = false) (hr : s.busReply = .ok b) (hv : s.block.pulse p = .drain i l)
    (hb : pinLevel b i ≠ l) : poll p s = .next ((s.readInput b).setPulse p (.waitStart i l)) := by
  simp only [poll, hv, guardBus_answered hs, drainPoll_ok hr, if_neg hb]

theorem poll_started (hs : s.busSilent = false) (hr : s.busReply = .ok b) (hv : s.block.pulse p = .waitStart i l)
    (hb : pinLevel b i = l) (hc : s.env.clock = t0 :: cs) :
    poll p s = .next ((s.readInput b).tookTime.setPulse p (.timing i l t0)) := by
  have ht : (s.readInput b).startTime = t0 := by
    rw [State.startTime, show (s.readInput b).env.clock = t0 :: cs from hc]
  simp only [poll, hv, guardBus_answered hs, startPoll, deviceRead_inp_ok hr, if_pos hb, ht]

theorem poll_timed (hs : s.busSilent = false) (hr : s.busReply = .ok b) (hv : s.block.pulse p = .timing i l t0)
    (hb : pinLevel b i ≠ l) (hc : s.env.clock = t1 :: cs) (ht : t0 ≤ t1) :
    poll p s = .next (((s.readInput b).tookTime.setPulse p .idle).respondOn p .ok 0x00 (some (t1 - t0))) := by
  have hend : (s.readInput b).endTime t0 = t1 := by
    rw [State.endTime, show (s.readInput b).env.clock = t1 :: cs from hc]
  simp only [poll, hv, hs, timingPoll, deviceRead_inp_ok hr, if_neg hb, hend, if_neg (Nat.not_lt.mpr ht)]
  rfl

end

/-! ### Runs of polls -/

theorem run_succ {M : Host.Core} {s t : M.State} {n : Nat} (h : M.step s = .next t) : M.run (n + 1) s = M.run n t := by
  simp only [Host.Core.run, h]

theorem run_congr {M : Host.Core} {s t : M.State} {n : Nat} (h : M.step s = M.step t) :
    M.run (n + 1) s = M.run (n + 1) t := by
  simp only [Host.Core.run, h]

theorem run_add {M : Host.Core} {s t : M.State} {m n : Nat} (h : M.run m s = .next t) : M.run (m + n) s = M.run n t := by
  induction m generalizing s with
  | zero => cases h; rw [Nat.zero_add]
  | succ m ih =>
    rw [Nat.succ_add]
    cases hs : M.step s with
    | next u => rw [run_succ hs] at h ⊢; exact ih h
    | fault r | refused r => simp only [Host.Core.run, hs] at h; cases h

/-- The script of `s` is a poll of port `p` for each of these bytes, which the bus answers in turn; then `ms` and `as`. -/
structure Offers (p : Port) (s : State) (bytes : List Byte) (ms : List Move) (as : List BusAnswer) : Prop where
  moves : s.env.moves = List.replicate bytes.length (.advance p 0) ++ ms
  bus   : s.env.bus = bytes.map (fun b => .reply (.ok b)) ++ as

/-- From `s` as many steps as there are bytes lead to `t`: each step reads its byte from the input register, the phase of
port `p` becomes `v`, the responses `rsps` come out, `nt` clock readings are taken, and nothing else happens. -/
structure Polled (p : Port) (s t : State) (bytes : List Byte) (v : Pulse) (rsps : List Response) (nt : Nat) : Prop where
  run   : core.run bytes.length s = .next t
  block : t.block = ((s.setX .inp (bytes.getLast?.getD (s.x .inp))).setPulse p v).block
  grew  : Grew s t (bytes.map fun b => .read s.block.address .inp (.ok b)) [] [] rsps
  moves : t.env.moves = s.env.moves.drop bytes.length
  bus   : t.env.bus = s.env.bus.drop bytes.length
  clock : t.env.clock = s.env.clock.drop nt

section
variable {p : Port} {s t u : State} {b : Byte} {xs ys : List Byte} {v w : Pulse} {rsps rsps' : List Response} {nt nt' : Nat}
  {ms : List Move} {as : List BusAnswer}

theorem Polled.pulse (h : Polled p s t xs v rsps nt) : t.block.pulse p = v := by
  rw [h.block, setPulse_pulse_same]

theorem Polled.offers (h : Polled p s t xs v rsps nt) (ho : Offers p s (xs ++ ys) ms as) : Offers p t ys ms as where
  moves := by
    rw [h.moves, ho.moves, List.length_append, List.replicate_add, List.append_assoc]
    exact List.drop_left' List.length_replicate
  bus := by
    rw [h.bus, ho.bus, List.map_append, List.append_assoc]
    exact List.drop_left' (List.length_map _)

theorem polled_nil (hv : s.block.pulse p = v) : Polled p s s [] v [] 0 where
  run := rfl
  block := by
    rw [setPulse_self (by cases p <;> exact hv)]
    simp [State.setX, State.x]
  grew := ⟨by simp, by simp, by simp, by simp⟩
  moves := rfl
  bus := rfl
  clock := rfl

theorem Polled.trans (h : Polled p s t xs v rsps nt) (h' : Polled p t u ys w rsps' nt') :
    Polled p s u (xs ++ ys) w (rsps ++ rsps') (nt + nt') where
  run := by rw [List.length_append, run_add h.run, h'.run]
  block := by
    rw [h'.block, List.getLast?_append]
    have hx : t.x .inp = xs.getLast?.getD (s.x .inp) := by rw [State.x, h.block]; simp
    rw [hx]
    cases p <;> simp [State.setPulse, State.setX, h.block, Option.getD_or]
  grew := by
    have haddr : t.block.address = s.block.address := by rw [h.block]; simp
    have hgrew := h.grew.trans h'.grew
    rw [haddr, ← List.map_append] at hgrew
    exact hgrew
  moves := by rw [h'.moves, h.moves, List.drop_drop, List.length_append]
  bus := by rw [h'.bus, h.bus, List.drop_drop, List.length_append]
  clock := by rw [h'.clock, h.clock, List.drop_drop]

/-- One poll, from what it leaves of the record and what it takes from the outside. -/
theorem polled_one (ho : Offers p s (b :: xs) ms as) (hp : s.block.pulse p ≠ .idle)
    (hpoll : poll p (s.withMoves s.env.moves.tail) = .next t)
    (hblock : t.block = ((s.setX .inp b).setPulse p v).block)
    (hout : Outside (s.withMoves s.env.moves.tail) t [.read s.block.address .inp (.ok b)] [] [] rsps 1 0 nt) :
    Polled p s t [b] v rsps nt := by
  obtain ⟨hgrew, hused⟩ := hout
  exact {
    run := by
      have hstep : core.step s = .next t := (step_poll (k := 0) (by rw [ho.moves]; rfl) hp).trans hpoll
      exact run_succ hstep
    block := hblock
    grew := hgrew.of_hist rfl
    moves := by rw [hused.moves]; exact List.drop_one.symm
    bus := hused.bus
    clock := hused.clock }

theorem Offers.busSilent (ho : Offers p s (b :: xs) ms as) : s.busSilent = false := by
  rw [State.busSilent, ho.bus]; rfl

theorem Offers.busReply (ho : Offers p s (b :: xs) ms as) : s.busReply = .ok b := by
  rw [State.busReply, ho.bus]; rfl

/-- While the awaited level is not there, the polls leave the phase as it is, however many they are. -/
theorem polled_waiting (ho : Offers p s (xs ++ ys) ms as) (hv : s.block.pulse p = v) (hw : ∀ b ∈ xs, v.Waits b) :
    ∃ t, Polled p s t xs v [] 0 := by
  induction xs generalizing s with
  | nil => exact ⟨s, polled_nil hv⟩
  | cons b xs ih =>
    have hb : v.Waits b := hw b List.mem_cons_self
    have hidle : s.block.pulse p ≠ .idle := fun h => by rw [← hv, h] at hb; exact hb
    have hself : (s.setX .inp b).setPulse p v = s.setX .inp b := setPulse_self (by cases p <;> exact hv)
    have hone : Polled p s ((s.withMoves s.env.moves.tail).readInput b) [b] v [] 0 :=
      polled_one ho hidle (poll_of_waits ho.busSilent ho.busReply hv hb) (by rw [hself]; rfl) (outside_readInput _ b)
    obtain ⟨t, ht⟩ := ih (hone.offers ho) hone.pulse fun c hc => hw c (List.mem_cons_of_mem b hc)
    exact ⟨t, hone.trans ht⟩

variable {i : PinIdx} {l : Level} {t0 t1 : Nat} {cs : List Nat}

/-- The poll that ends the drain phase. -/
theorem polled_drained (ho : Offers p s (b :: xs) ms as) (hv : s.block.pulse p = .drain i l) (hb : pinLevel b i ≠ l) :
    ∃ t, Polled p s t [b] (.waitStart i l) [] 0 := by
  refine ⟨_, polled_one ho (by rw [hv]; nofun) (poll_drained ho.busSilent ho.busReply hv hb) ?_
    ((outside_readInput _ b).trans (outside_setPulse _ _ _))⟩
  cases p <;> rfl

/-- The poll that starts the measurement. -/
theorem polled_started (ho : Offers p s (b :: xs) ms as) (hv : s.block.pulse p = .waitStart i l) (hb : pinLevel b i = l)
    (hc : s.env.clock = t0 :: cs) : ∃ t, Polled p s t [b] (.timing i l t0) [] 1 := by
  refine ⟨_, polled_one ho (by rw [hv]; nofun) (poll_started ho.busSilent ho.busReply hv hb hc) ?_
    (((outside_readInput _ b).trans (outside_tookTime _)).trans (outside_setPulse _ _ _))⟩
  cases p <;> rfl

/-- The poll that ends the measurement, and with it the command. -/
theorem polled_timed (ho : Offers p s (b :: xs) ms as) (hv : s.block.pulse p = .timing i l t0) (hb : pinLevel b i ≠ l)
    (hc : s.env.clock = t1 :: cs) (ht : t0 ≤ t1) :
    ∃ t, Polled p s t [b] .idle [⟨p, responseWord .ok 0x00, some (t1 - t0)⟩] 1 := by
  refine ⟨_, polled_one ho (by rw [hv]; nofun) (poll_timed ho.busSilent ho.busReply hv hb hc ht) ?_
    ((((outside_readInput _ b).trans (outside_tookTime _)).trans (outside_setPulse _ _ _)).trans
      (outside_respondOn _ _ _ _ _))⟩
  cases p <;> rfl

/-- The three phases (R140), from a port that drains to the response. -/
theorem polled_pulse {drain wait timing : List Byte} {x y z : Byte}
    (ho : Offers p s (drain ++ [x] ++ wait ++ [y] ++ timing ++ [z]) ms as) (hv : s.block.pulse p = .drain i l)
    (hc : s.env.clock = t0 :: t1 :: cs) (ht : t0 ≤ t1)
    (hdrain : ∀ b ∈ drain, pinLevel b i = l) (hx : pinLevel x i ≠ l)
    (hwait : ∀ b ∈ wait, pinLevel b i ≠ l) (hy : pinLevel y i = l)
    (htiming : ∀ b ∈ timing, pinLevel b i = l) (hz : pinLevel z i ≠ l) :
    ∃ t, Polled p s t (drain ++ [x] ++ wait ++ [y] ++ timing ++ [z]) .idle
      [⟨p, responseWord .ok 0x00, some (t1 - t0)⟩] 2 := by
  simp only [List.append_assoc] at ho
  obtain ⟨sDrain, hdrains⟩ := polled_waiting ho hv hdrain
  have ho := hdrains.offers ho
  obtain ⟨sOpposite, hopposite⟩ := polled_drained ho hdrains.pulse hx
  have ho := hopposite.offers ho
  obtain ⟨sWait, hwaits⟩ := polled_waiting ho hopposite.pulse hwait
  have ho := hwaits.offers ho
  have toWait := (hdrains.trans hopposite).trans hwaits
  obtain ⟨sStart, hstarts⟩ := polled_started ho hwaits.pulse hy (by rw [toWait.clock, hc]; rfl)
  have ho := hstarts.offers ho
  obtain ⟨sTiming, htimes⟩ := polled_waiting ho hstarts.pulse htiming
  have ho := htimes.offers ho
  have toTiming := (toWait.trans hstarts).trans htimes
  obtain ⟨sEnd, hends⟩ := polled_timed ho htimes.pulse hz (by rw [toTiming.clock, hc]; rfl) ht
  exact ⟨sEnd, toTiming.trans hends⟩

/-- A port that drains, with `n` polls more than the one at hand, offers `n + 1` bytes. -/
theorem offers_draining {n : Nat} (hlen : xs.length = n + 1)
    (hbus : s.env.bus = xs.map (fun b => .reply (.ok b)) ++ as) :
    Offers p (s.draining p i l (List.replicate n (.advance p 0) ++ ms)) xs ms as where
  moves := by rw [draining_env, hlen]; rfl
  bus := by rw [draining_env]; exact hbus

end

/-- Settles O21: the issuing step is the first poll of a port that drains, and from there `polled_pulse` is the run. -/
theorem ppulseCompletesAfterItsPolls : Obligations.PpulseCompletesAfterItsPolls := by
  unfold Obligations.PpulseCompletesAfterItsPolls
  intro p i l s drain wait timing x y z t0 t1 ms as cs hmay hdrain hx hwait hy htiming hz ht hmoves hbus hclock
  have hlen : (drain ++ [x] ++ wait ++ [y] ++ timing ++ [z]).length =
      drain.length + wait.length + timing.length + 2 + 1 := by
    simp only [List.length_append, List.length_singleton]
    omega
  have ho := offers_draining (p := p) (i := i) (l := l) (ms := ms) hlen hbus
  obtain ⟨t, h⟩ := polled_pulse ho (draining_pulse _) ((congrArg Env.clock (draining_env _)).trans hclock) ht
    hdrain hx hwait hy htiming hz
  refine ⟨t, ?run, ?block, ?moves, ?grew⟩
  case run =>
    rw [← h.run, hlen]
    exact run_congr (M := core) (step_ppulse hmoves hmay)
  case block =>
    rw [h.block, List.getLast?_concat, draining_done _ _ (pulse_idle_of_mayCommand hmay)]
    rfl
  case moves =>
    rw [h.moves, ho.moves]
    exact List.drop_left' List.length_replicate
  case grew =>
    have hgrew := h.grew.of_hist (draining_hist _)
    rw [draining_address] at hgrew
    exact hgrew

end Sys2Proof.Machine
end

section
/-! PROOFS. The nesting of the sequences in progress (42_interrupt_dispatcher.md R166, 60_exceptions.md R214, R220): what
`State.Sequenced` asks of one port's DISP commands, and one rule for each change of the sequencing state. -/

namespace Sys2Proof.Machine

/-! ### The invariant, port by port -/

/-- The DISP commands in progress on a port whose PPULSE is in phase `v` nest: the enclosing ones wait for their handlers,
a PPULSE stands under a running handler, and each is in order and not over. -/
def StackOk (m : DispatchMode) (v : Pulse) : List Fanout → Prop
  | [] => True
  | f :: rest =>
    (v ≠ .idle → f.running.isSome = true) ∧ (∀ g ∈ rest, g.running.isSome = true) ∧
      ∀ g ∈ f :: rest, g.Ok ∧ g.over m = false

section
variable {m : DispatchMode} {v : Pulse} {f : Fanout} {rest : List Fanout}

theorem StackOk.under (h : StackOk m v (f :: rest)) : v ≠ .idle → f.running.isSome = true := h.1

theorem StackOk.outer (h : StackOk m v (f :: rest)) : ∀ g ∈ rest, g.running.isSome = true := h.2.1

theorem StackOk.ok (h : StackOk m v (f :: rest)) : ∀ g ∈ f :: rest, g.Ok ∧ g.over m = false := h.2.2

theorem StackOk.head (h : StackOk m v (f :: rest)) : f.Ok ∧ f.over m = false := h.ok f List.mem_cons_self

end

/-- The service sequence's own fan-out is in order and not over. -/
def Svc.InOrder (m : DispatchMode) (v : Svc) : Prop := ∀ f, v = .fanout f → f.Ok ∧ f.over m = false

/-- Port `p` may be busy: port S always, port A under a running handler of the service sequence. -/
def State.Awake (p : Port) (s : State) : Prop := p = .portA → s.block.svc.handlerRunning = true

theorem sequenced_iff {s : State} :
    s.Sequenced ↔ (∀ p, s.Awake p ∨ s.block.disp p = [] ∧ s.block.pulse p = .idle) ∧
      (∀ p, StackOk s.mode (s.block.pulse p) (s.block.disp p)) ∧ s.block.svc.InOrder s.mode := by
  constructor
  · intro h
    refine ⟨fun p => ?_, fun p => ?_, h.svcOk⟩
    · cases p with
      | portS => exact .inl nofun
      | portA =>
        cases hr : s.block.svc.handlerRunning with
        | true => exact .inl fun _ => hr
        | false => exact .inr (h.portAQuiet hr)
    · cases hd : s.block.disp p with
      | nil => trivial
      | cons f rest =>
        exact ⟨fun hp => h.pulseUnder p f rest hp hd, h.outerRunning p f rest hd, hd ▸ h.dispOk p⟩
  · rintro ⟨hquiet, hstack, hsvc⟩
    have hcons : ∀ p f rest, s.block.disp p = f :: rest → StackOk s.mode (s.block.pulse p) (f :: rest) :=
      fun p _ _ hd => hd ▸ hstack p
    refine ⟨fun hr => ?_, fun p f rest hd => (hcons p f rest hd).outer, fun p f rest hp hd => (hcons p f rest hd).under hp,
      fun p f hf => ?_, hsvc⟩
    · exact (hquiet .portA).resolve_left fun ha => absurd (ha rfl) (by simp [hr])
    · cases hd : s.block.disp p with
      | nil => rw [hd] at hf; cases hf
      | cons g rest => exact (hcons p g rest hd).ok f (hd ▸ hf)

section
variable {s t : State} {p : Port}

theorem State.Sequenced.stack (h : s.Sequenced) (p : Port) : StackOk s.mode (s.block.pulse p) (s.block.disp p) :=
  (sequenced_iff.mp h).2.1 p

theorem State.Sequenced.awake_of_pulse (h : s.Sequenced) (hp : s.block.pulse p ≠ .idle) : s.Awake p :=
  ((sequenced_iff.mp h).1 p).resolve_right fun hq => hp hq.2

theorem State.Sequenced.awake_of_disp (h : s.Sequenced) (hd : s.block.disp p ≠ []) : s.Awake p :=
  ((sequenced_iff.mp h).1 p).resolve_right fun hq => hd hq.1

/-- Under a sequence whose handler does not run, port A is free. -/
theorem State.Sequenced.quiet (h : s.Sequenced) (hr : s.block.svc.handlerRunning = false) :
    s.block.disp .portA = [] ∧ s.block.pulse .portA = .idle := h.portAQuiet hr

/-! ### One rule for each change of the sequencing state -/

/-- `t` has the sequencing state of `s`. -/
structure SameSequence (s t : State) : Prop where
  mode  : t.mode = s.mode
  pulse : t.block.pulse = s.block.pulse
  disp  : t.block.disp = s.block.disp
  svc   : t.block.svc = s.block.svc

theorem State.Sequenced.of_same (h : s.Sequenced) (hst : SameSequence s t) : t.Sequenced := by
  rw [sequenced_iff] at h ⊢
  simp only [State.Awake, hst.mode, hst.pulse, hst.disp, hst.svc] at h ⊢
  exact h

theorem sameSequence_of_block (hm : t.mode = s.mode) (hb : t.block = s.block) : SameSequence s t :=
  ⟨hm, by rw [hb], by rw [hb], by rw [hb]⟩

theorem SameButEnv.sameSequence (h : SameButEnv s t) : SameSequence s t := sameSequence_of_block h.mode h.block

/-- A port that may be busy may have its PPULSE in any phase that its DISP commands allow. -/
theorem State.Sequenced.setPulse (h : s.Sequenced) {v : Pulse} (ha : s.Awake p)
    (hv : StackOk s.mode v (s.block.disp p)) : (s.setPulse p v).Sequenced := by
  rw [sequenced_iff] at h ⊢
  obtain ⟨hquiet, hstack, hsvc⟩ := h
  simp only [State.Awake, setPulse_svc, setPulse_disp, setPulse_mode] at hquiet ⊢
  refine ⟨fun q => ?_, fun q => ?_, hsvc⟩ <;> by_cases hq : q = p
  · subst hq; exact .inl ha
  · rw [setPulse_pulse_of_ne s p q v hq]; exact hquiet q
  · subst hq; rw [setPulse_pulse_same]; exact hv
  · rw [setPulse_pulse_of_ne s p q v hq]; exact hstack q

theorem State.Sequenced.setDisp (h : s.Sequenced) {fs : List Fanout} (ha : s.Awake p)
    (hfs : StackOk s.mode (s.block.pulse p) fs) : (s.setDisp p fs).Sequenced := by
  rw [sequenced_iff] at h ⊢
  obtain ⟨hquiet, hstack, hsvc⟩ := h
  simp only [State.Awake, setDisp_svc, setDisp_pulse, setDisp_mode] at hquiet ⊢
  refine ⟨fun q => ?_, fun q => ?_, hsvc⟩ <;> by_cases hq : q = p
  · subst hq; exact .inl ha
  · rw [setDisp_disp_of_ne s p q fs hq]; exact hquiet q
  · subst hq; rw [setDisp_disp_same]; exact hfs
  · rw [setDisp_disp_of_ne s p q fs hq]; exact hstack q

/-- While port A is free the service sequence may be in any phase. -/
theorem State.Sequenced.setSvc (h : s.Sequenced) {v : Svc}
    (hA : s.block.disp .portA = [] ∧ s.block.pulse .portA = .idle) (hv : v.InOrder s.mode) : (s.setSvc v).Sequenced := by
  refine sequenced_iff.mpr ⟨fun q => ?_, h.stack, hv⟩
  cases q with
  | portS => exact .inl nofun
  | portA => exact .inr hA

theorem svc_noteRemoved_handlerRunning (i : PinIdx) (v : Svc) : (v.noteRemoved i).handlerRunning = v.handlerRunning := by
  cases v <;> rfl

theorem over_noteRemoved (i : PinIdx) (m : DispatchMode) (f : Fanout) : (f.noteRemoved i).over m = f.over m := by
  cases m <;> rfl

theorem noteRemoved_disp (i : PinIdx) (b : Block) (p : Port) :
    (b.noteRemoved i).disp p = (b.disp p).map (Fanout.noteRemoved i) := by cases p <;> rfl

theorem noteRemoved_pulse (i : PinIdx) (b : Block) (p : Port) : (b.noteRemoved i).pulse p = b.pulse p := by
  cases p <;> rfl

theorem StackOk.noteRemoved {m : DispatchMode} {v : Pulse} {fs : List Fanout} (i : PinIdx) (h : StackOk m v fs) :
    StackOk m v (fs.map (Fanout.noteRemoved i)) := by
  cases fs with
  | nil => trivial
  | cons f rest =>
    obtain ⟨hunder, houter, hok⟩ := h
    refine ⟨hunder, List.forall_mem_map.mpr houter, List.forall_mem_map (l := f :: rest).mpr fun g hg => ?_⟩
    obtain ⟨hg, hover⟩ := hok g hg
    exact ⟨hg.noteRemoved, (over_noteRemoved i m g).trans hover⟩

theorem Svc.InOrder.noteRemoved {m : DispatchMode} {v : Svc} (i : PinIdx) (h : v.InOrder m) :
    (v.noteRemoved i).InOrder m := by
  cases v with
  | fanout f =>
    rintro g hg
    obtain rfl := Svc.fanout.inj hg
    obtain ⟨hf, hover⟩ := h f rfl
    exact ⟨hf.noteRemoved, (over_noteRemoved i m f).trans hover⟩
  | _ => exact h

/-- In snapshot mode no dispatch notes a removal (R163). -/
theorem clearWatch_sameSequence (i : PinIdx) (hm : s.mode = .snapshot) : SameSequence s (s.clearWatch i) := by
  have hb := clearWatch_snapshot s i hm
  exact ⟨rfl, by rw [hb]; rfl, by rw [hb]; rfl, by rw [hb]⟩

/-- A removed entry leaves the nesting: at most it is noted (R164). -/
theorem State.Sequenced.clearWatch (i : PinIdx) (h : s.Sequenced) : (s.clearWatch i).Sequenced := by
  cases hm : s.mode with
  | snapshot => exact h.of_same (clearWatch_sameSequence i hm)
  | live =>
    obtain ⟨hquiet, hstack, hsvc⟩ := sequenced_iff.mp h
    have hb := clearWatch_live s i hm
    refine sequenced_iff.mpr ⟨fun p => ?_, fun p => ?_, ?_⟩
    · rw [State.Awake, hb, noteRemoved_disp, noteRemoved_pulse, List.map_eq_nil_iff]
      exact (hquiet p).imp_left fun ha hp => (svc_noteRemoved_handlerRunning i _).trans (ha hp)
    · rw [hb, noteRemoved_disp, noteRemoved_pulse]
      exact (hstack p).noteRemoved i
    · rw [hb]
      exact hsvc.noteRemoved i

end
end Sys2Proof.Machine
end

section
/-! PROOFS. Every step keeps the nesting of the sequences in progress: the commands (42_interrupt_dispatcher.md R162, R166),
the service sequence (60_exceptions.md R210, R211), returns (R214) and polls. -/

namespace Sys2Proof.Machine

/-! ### What a command does to the sequencing state -/

section
variable {s t : State}

theorem writeCommand_sameSequence (r : Reg) (b : Byte) (s : State) : SameSequence s (writeCommand r b s) := by
  rcases deviceWrite_cases r b s with h | ⟨e, h⟩ <;> simp only [writeCommand, h] <;> exact ⟨rfl, rfl, rfl, rfl⟩

theorem readCommand_sameSequence (r : Reg) (s : State) : SameSequence s (readCommand r s) := by
  rcases deviceRead_cases r s with ⟨b, -, h⟩ | ⟨e, -, h⟩ <;> simp only [readCommand, h] <;> exact ⟨rfl, rfl, rfl, rfl⟩

theorem preadCommand_sameSequence (i : PinIdx) (s : State) : SameSequence s (preadCommand i s) := by
  rcases deviceRead_cases .inp s with ⟨b, -, h⟩ | ⟨e, -, h⟩ <;> simp only [preadCommand, h] <;>
    exact ⟨rfl, rfl, rfl, rfl⟩

theorem watchCommand_sameSequence (i : PinIdx) (k : Tok) (s : State) : SameSequence s (watchCommand i k s) := by
  rcases deviceWrite_cases .cfg (mergeBit (s.x .cfg) i true) s with h | ⟨e, h⟩ <;> simp only [watchCommand, h] <;>
    exact ⟨rfl, rfl, rfl, rfl⟩

theorem drainPoll_sameSequence (p : Port) (i : PinIdx) (l : Level) (s : State) :
    ∃ v, SameSequence (s.setPulse p v) (drainPoll p i l s) := by
  rcases deviceRead_cases .inp s with ⟨b, -, h⟩ | ⟨e, -, h⟩ <;> simp only [drainPoll, h]
  · exact ⟨_, by cases p <;> exact ⟨rfl, rfl, rfl, rfl⟩⟩
  · exact ⟨.idle, by cases p <;> exact ⟨rfl, rfl, rfl, rfl⟩⟩

/-- What a command does to the sequencing state: nothing, unless it removes an entry, or is PPULSE or DISP. -/
theorem exec_sequence {i : Instr} (h : exec i s = .next t) :
    SameSequence s t ∨ (∃ j, SameSequence (s.clearWatch j) t) ∨ (∃ v, SameSequence (s.setPulse s.turn v) t) ∨
      ∃ b, t = startDisp b s := by
  cases i with
  | setint xp k =>
    rcases setint_cases h with ⟨-, rfl⟩ | ⟨-, -, rfl⟩ | ⟨-, -, -, rfl⟩ | ⟨-, -, -, rfl⟩ <;>
      exact .inl ⟨rfl, rfl, rfl, rfl⟩
  | close =>
    rcases close_cases h with ⟨-, rfl⟩ | ⟨-, -, rfl⟩ | ⟨-, -, rfl⟩ <;> exact .inl ⟨rfl, rfl, rfl, rfl⟩
  | reg _ _ | ppull _ _ => cases h; exact .inl ⟨rfl, rfl, rfl, rfl⟩
  | pstop j | unreg j => cases h; exact .inr (.inl ⟨j, rfl, rfl, rfl, rfl⟩)
  | disp b => cases h; exact .inr (.inr (.inr ⟨b, rfl⟩))
  | ppulse i l =>
    obtain ⟨-, rfl⟩ := guardBus_eq_next h
    exact .inr (.inr (.inl (drainPoll_sameSequence _ i l s)))
  | rdin | rdout | rdcfg | rdpol => obtain ⟨-, rfl⟩ := guardBus_eq_next h; exact .inl (readCommand_sameSequence _ s)
  | pread i => obtain ⟨-, rfl⟩ := guardBus_eq_next h; exact .inl (preadCommand_sameSequence i s)
  | pwatch i e k => obtain ⟨-, rfl⟩ := guardBus_eq_next h; exact .inl (watchCommand_sameSequence i k s)
  | wrcfg _ | wrpol _ | wrout _ | pdir _ _ | pactlow _ _ | pwrite _ _ =>
    obtain ⟨-, rfl⟩ := guardBus_eq_next h
    exact .inl (writeCommand_sameSequence _ _ s)

variable {p : Port} {f : Fanout} {rest : List Fanout}

/-! ### Who runs -/

theorem handlerRunning_of_disp (hd : s.block.disp p = f :: rest) : s.handlerRunning p = f.running.isSome := by
  simp only [State.handlerRunning, hd]

theorem handlerRunning_of_no_disp (hd : s.block.disp .portA = []) :
    s.handlerRunning .portA = s.block.svc.handlerRunning := by
  simp only [State.handlerRunning, hd]

theorem State.Sequenced.awake_of_handlerRunning (h : s.Sequenced) (hr : s.handlerRunning p = true) : s.Awake p := by
  cases hd : s.block.disp p with
  | nil => rintro rfl; rwa [handlerRunning_of_no_disp hd] at hr
  | cons f rest => exact h.awake_of_disp (by rw [hd]; nofun)

theorem handlerRunning_of_mayCommand (hmay : s.mayCommand p = true) :
    s.handlerRunning p = true ∨ p = .portS ∧ s.block.dispS = [] := by
  simpa using (Bool.and_eq_true_iff.mp hmay).2

theorem State.Sequenced.awake_of_mayCommand (h : s.Sequenced) (hmay : s.mayCommand p = true) : s.Awake p := by
  rcases handlerRunning_of_mayCommand hmay with hr | ⟨rfl, -⟩
  · exact h.awake_of_handlerRunning hr
  · exact nofun

/-- Where a command may be issued, every dispatch in progress on the port waits for its handler. -/
theorem State.Sequenced.running_of_mayCommand (h : s.Sequenced) (hmay : s.mayCommand p = true) :
    ∀ g ∈ s.block.disp p, g.running.isSome = true := by
  have hstack := h.stack p
  cases hd : s.block.disp p with
  | nil => exact fun _ hg => nomatch hg
  | cons f rest =>
    rw [hd] at hstack
    have hhead : f.running.isSome = true := by
      rcases handlerRunning_of_mayCommand hmay with hr | ⟨rfl, hnil⟩
      · rwa [handlerRunning_of_disp hd] at hr
      · exact absurd (hnil.symm.trans hd) nofun
    exact List.forall_mem_cons.mpr ⟨hhead, hstack.outer⟩

/-! ### DISP commands -/

/-- A dispatch on top of others that wait for their handlers. -/
theorem stackOk_cons {m : DispatchMode} {v : Pulse} (hrest : StackOk m v rest) (houter : ∀ g ∈ rest, g.running.isSome = true)
    (hf : f.Ok ∧ f.over m = false) : StackOk m .idle (f :: rest) := by
  refine ⟨fun h => absurd rfl h, houter, List.forall_mem_cons.mpr ⟨hf, ?_⟩⟩
  cases rest with
  | nil => exact fun _ hg => nomatch hg
  | cons g rest => exact hrest.ok

/-- The dispatches under the innermost one nest. -/
theorem StackOk.tail {m : DispatchMode} {v : Pulse} (h : StackOk m v (f :: rest)) : StackOk m .idle rest := by
  cases rest with
  | nil => trivial
  | cons g rest =>
    exact ⟨fun h => absurd rfl h, fun x hx => h.outer x (.tail g hx), fun x hx => h.ok x (.tail f hx)⟩

theorem endDisp_sequenced (h : s.Sequenced) (ha : s.Awake p) (hp : s.block.pulse p = .idle)
    (hrest : StackOk s.mode .idle rest) : (endDisp p rest s).Sequenced :=
  (h.setDisp ha (hp ▸ hrest)).of_same ⟨rfl, rfl, rfl, rfl⟩

/-- A dispatch in order, on others that wait for their handlers, may stand or end (R162). -/
theorem settleDisp_sequenced (h : s.Sequenced) (ha : s.Awake p) (hp : s.block.pulse p = .idle)
    (hrest : StackOk s.mode .idle rest) (houter : ∀ g ∈ rest, g.running.isSome = true) (hf : f.Ok) :
    (settleDisp p f rest s).Sequenced := by
  unfold settleDisp
  split
  · exact endDisp_sequenced h ha hp hrest
  · next hover => exact h.setDisp ha (hp ▸ stackOk_cons hrest houter ⟨hf, Bool.eq_false_iff.mpr hover⟩)

theorem advanceDisp_sequenced {k : Nat} (h : s.Sequenced) (hp : s.block.pulse p = .idle)
    (hd : s.block.disp p = f :: rest) : (advanceDisp p k f rest s).Sequenced := by
  have ha : s.Awake p := h.awake_of_disp (by rw [hd]; nofun)
  have hstack := h.stack p
  rw [hd] at hstack
  unfold advanceDisp
  split
  · next q hq =>
    have hinvoked := hstack.head.1.invoke hq
    exact (h.setDisp ha (hp ▸ stackOk_cons hstack.tail hstack.outer hinvoked)).of_same ⟨rfl, rfl, rfl, rfl⟩
  · exact endDisp_sequenced h ha hp hstack.tail

/-! ### The commands -/

/-- A command keeps the nesting where it may be issued. -/
theorem exec_sequenced {i : Instr} (h : s.Sequenced) (hmay : s.mayCommand s.turn = true) (he : exec i s = .next t) :
    t.Sequenced := by
  have ha := h.awake_of_mayCommand hmay
  have hwait := h.running_of_mayCommand hmay
  have hidle := pulse_idle_of_mayCommand hmay
  have hstack := h.stack s.turn
  rcases exec_sequence he with hsame | ⟨j, hsame⟩ | ⟨v, hsame⟩ | ⟨b, rfl⟩
  · exact h.of_same hsame
  · exact (h.clearWatch j).of_same hsame
  · refine (h.setPulse ha ?_).of_same hsame
    cases hd : s.block.disp s.turn with
    | nil => trivial
    | cons f rest =>
      rw [hd] at hstack hwait
      exact ⟨fun _ => hwait f List.mem_cons_self, hstack.outer, hstack.ok⟩
  · exact settleDisp_sequenced h ha hidle (hidle ▸ hstack) hwait (startFanout_ok b s)

/-! ### The service sequence -/

theorem serviceEntry_sequenced (h : s.Sequenced) (hs : s.block.svc = .idle) : (serviceEntry s).Sequenced := by
  have hA := h.quiet (by rw [hs]; rfl)
  have enter : ∀ u v, SameSequence s u → (∀ f, v ≠ .fanout f) → (u.setSvc v).Sequenced := fun u v hu hv =>
    (h.of_same hu).setSvc (by rw [hu.disp, hu.pulse]; exact hA) fun f hf => absurd hf (hv f)
  rcases deviceRead_cases .inp s with ⟨b, -, hr⟩ | ⟨e, -, hr⟩ <;> simp only [serviceEntry, hr]
  · exact enter _ _ ⟨rfl, rfl, rfl, rfl⟩ fun _ => nofun
  · exact enter _ _ ⟨rfl, rfl, rfl, rfl⟩ fun _ => nofun

theorem settleSvc_sequenced (h : s.Sequenced) (hA : s.block.disp .portA = [] ∧ s.block.pulse .portA = .idle) (hf : f.Ok) :
    (settleSvc f s).Sequenced := by
  unfold settleSvc
  split
  · exact h.setSvc hA fun _ => nofun
  · next hover =>
    refine h.setSvc hA fun g hg => ?_
    obtain rfl := Svc.fanout.inj hg
    exact ⟨hf, Bool.eq_false_iff.mpr hover⟩

theorem advanceSvc_sequenced {k : Nat} (h : s.Sequenced) (hs : s.block.svc = .fanout f) (hr : f.running.isNone = true) :
    (advanceSvc k f s).Sequenced := by
  have hA := h.quiet (by rw [hs]; simpa [Svc.handlerRunning] using hr)
  unfold advanceSvc
  split
  · next q hq =>
    refine (h.setSvc (v := .fanout (f.invoke q)) hA fun g hg => ?_).of_same ⟨rfl, rfl, rfl, rfl⟩
    obtain rfl := Svc.fanout.inj hg
    exact (h.svcOk f hs).1.invoke hq
  · exact h.setSvc hA fun _ => nofun

theorem advanceService_sequenced (k : Nat) (h : s.Sequenced) : (advanceService k s).Sequenced := by
  unfold advanceService
  split
  · next hs =>
    exact (h.setSvc (v := .top _ _ true) (h.quiet (by rw [hs]; rfl)) fun _ => nofun).of_same ⟨rfl, rfl, rfl, rfl⟩
  · next f hs =>
    split
    · next hr => exact advanceSvc_sequenced h hs hr
    · exact h
  · next hs =>
    have hflag : s.setAsyncFault.Sequenced := h.of_same ⟨rfl, rfl, rfl, rfl⟩
    exact hflag.setSvc (h.quiet (by rw [hs]; rfl)) fun _ => nofun
  · next hs =>
    exact (h.setSvc (v := .idle) (h.quiet (by rw [hs]; rfl)) fun _ => nofun).of_same ⟨rfl, rfl, rfl, rfl⟩
  · exact h

/-! ### The steps of the sequences in progress -/

theorem advanceHandlers_sequenced (k : Nat) (h : s.Sequenced) (hp : s.block.pulse p = .idle) :
    (advanceHandlers p k s).Sequenced := by
  unfold advanceHandlers
  split
  · next f rest hd =>
    split
    · exact advanceDisp_sequenced h hp hd
    · exact h
  · exact h
  · exact advanceService_sequenced k h

theorem handlerReturn_sequenced (h : s.Sequenced) (hmay : s.mayReturn p = true) : (handlerReturn p s).Sequenced := by
  obtain ⟨hidle, hr⟩ := Bool.and_eq_true_iff.mp hmay
  have hp : s.block.pulse p = .idle := beq_iff_eq.mp hidle
  have ha := h.awake_of_handlerRunning hr
  have hstack := h.stack p
  unfold handlerReturn
  split
  · next hd =>
    rw [hd] at hstack
    exact settleDisp_sequenced h ha hp hstack.tail hstack.outer hstack.head.1.returned
  · next hs hd => exact settleSvc_sequenced h ⟨hd, hp⟩ (startFanout_ok _ s)
  · next f hs hd => exact settleSvc_sequenced h ⟨hd, hp⟩ (h.svcOk f hs).1.returned
  · exact h

theorem deviceRead_mode (r : Reg) (s : State) : (deviceRead r s).2.mode = s.mode := by
  rcases deviceRead_cases r s with ⟨b, -, h⟩ | ⟨e, -, h⟩ <;> rw [h] <;> rfl

theorem poll_mode (h : poll p s = .next t) : t.mode = s.mode := by
  rw [← deviceRead_mode .inp s]
  unfold poll at h
  split at h
  · cases h; exact (deviceRead_mode .inp s).symm
  · obtain ⟨-, rfl⟩ := guardBus_eq_next h
    unfold drainPoll
    split <;> next hd => simp [hd, pollFailed]
  · obtain ⟨-, rfl⟩ := guardBus_eq_next h
    unfold startPoll
    split
    · next hd => split <;> simp [hd]
    · next hd => simp [hd, pollFailed]
  · split at h
    · cases h
    · unfold timingPoll at h
      split at h
      · next hd =>
        split at h
        · cases h; simp [hd]
        · split at h <;> cases h
          simp [hd]
      · next hd => cases h; simp [hd, pollFailed]

/-- A poll changes its own port's phase and nothing else of the sequencing state. -/
theorem poll_sameSequence (h : poll p s = .next t) : ∃ v, SameSequence (s.setPulse p v) t := by
  obtain ⟨b, v, hb⟩ := poll_block h
  exact ⟨v, (poll_mode h).trans (setPulse_mode s p v).symm, by rw [hb]; rfl, by rw [hb]; rfl, by rw [hb]⟩

theorem poll_sequenced (h : s.Sequenced) (hp : s.block.pulse p ≠ .idle) (ht : poll p s = .next t) : t.Sequenced := by
  obtain ⟨v, hv⟩ := poll_sameSequence ht
  have hstack := h.stack p
  refine (h.setPulse (h.awake_of_pulse hp) ?_).of_same hv
  cases hd : s.block.disp p with
  | nil => trivial
  | cons f rest => rw [hd] at hstack; exact ⟨fun _ => hstack.under hp, hstack.outer, hstack.ok⟩

end

/-- Settles O41, one way of a step (`step_cases`) at a time. -/
theorem everyStepKeepsTheSequencing : Obligations.EveryStepKeepsTheSequencing := by
  unfold Obligations.EveryStepKeepsTheSequencing
  intro s t h hstep
  have same : ∀ u, SameButEnv s u → u.Sequenced := fun u hu => h.of_same hu.sameSequence
  rcases step_cases hstep with ⟨p, w, ms, i, -, hmay, -, he⟩ | ⟨p, w, ms, -, -, -, rfl⟩ | ⟨ms, -, -, -, rfl⟩ |
    ⟨ms, -, hs, -, -, rfl⟩ | ⟨p, u, hu, hp, ht⟩ | ⟨p, k, u, hu, hp, rfl⟩ | ⟨p, ms, -, hr, rfl⟩ | rfl
  · have hon : ((s.withMoves ms).onPort p).Sequenced := h.of_same ⟨rfl, rfl, rfl, rfl⟩
    exact exec_sequenced hon hmay he
  · exact h.of_same ⟨rfl, rfl, rfl, rfl⟩
  · exact h.of_same ⟨rfl, rfl, rfl, rfl⟩
  · exact serviceEntry_sequenced (same _ (sameButEnv_withMoves s ms)) hs
  · exact poll_sequenced (same u hu) (by rw [hu.block]; exact hp) ht
  · exact advanceHandlers_sequenced k (same u hu) (by rw [hu.block]; exact hp)
  · exact handlerReturn_sequenced (same _ (sameButEnv_withMoves s ms)) hr
  · exact h

end Sys2Proof.Machine
end

section
/-! PROOFS. The watcher table and a dispatch's choices (42_interrupt_dispatcher.md R160, R163, R164). -/

namespace Sys2Proof.Machine

/-! ### The table (R160, R163) -/

/-- Settles O25: REG is `setWatch` and the response. -/
theorem registerOverwritesOneEntry : Obligations.RegisterOverwritesOneEntry :=
  fun i h s => ⟨_, rfl, fun j => watch_get_set s.block.watch i j (some h), rfl,
    (outside_record s _).trans (outside_respond (s.setWatch i h) _ _)⟩

/-- The same sequencing state in every field that holds dispatches. -/
theorem SameSequence.dispatches {s t : State} (h : SameSequence s t) :
    t.block.svc = s.block.svc ∧ t.block.dispS = s.block.dispS ∧ t.block.dispA = s.block.dispA :=
  ⟨h.svc, congrFun h.disp .portS, congrFun h.disp .portA⟩

/-- Settles O29: REG and PWATCH leave the dispatches in either mode, and a removal is not noted in snapshot mode. -/
theorem tableChangesLeaveADispatchAlone : Obligations.TableChangesLeaveADispatchAlone := by
  unfold Obligations.TableChangesLeaveADispatchAlone
  intro i e h s t hm hrun
  rcases hrun with hreg | hunreg | hpstop | hpwatch
  · cases hreg; exact ⟨rfl, rfl, rfl⟩
  · cases hunreg; exact (clearWatch_sameSequence i hm).dispatches
  · cases hpstop; exact (clearWatch_sameSequence i hm).dispatches
  · obtain ⟨-, rfl⟩ := guardBus_eq_next hpwatch
    exact (watchCommand_sameSequence i h s).dispatches

/-! ### The choices (R164, R165) -/

section
variable {m : DispatchMode} {w : Vector (Option Tok) 8} {f : Fanout} {q : PinIdx × Tok}

/-- Every candidate can be the next. -/
theorem exists_pick (hq : q ∈ f.candidates m w) : ∃ k, f.pick m w k = some q := by
  obtain ⟨k, hk, rfl⟩ := List.getElem_of_mem hq
  exact ⟨k, by rw [Fanout.pick, Nat.mod_eq_of_lt (Nat.lt_add_right _ hk), List.getElem?_eq_getElem hk]⟩

theorem mem_candidates_of_pick {k : Nat} (h : f.pick m w k = some q) : q ∈ f.candidates m w :=
  List.mem_of_getElem? h

/-- A dispatch may end exactly when nothing is owed. -/
theorem exists_pick_none_iff : (∃ k, f.pick m w k = none) ↔ f.obliged m = [] := by
  constructor
  · rintro ⟨k, hk⟩
    rcases pick_cases (m := m) (w := w) (k := k) (f := f) with ⟨q, hq, -⟩ | ⟨-, ho⟩
    · rw [hk] at hq; cases hq
    · exact ho
  · intro ho
    refine ⟨(f.candidates m w).length, ?_⟩
    simp [Fanout.pick, ho]

theorem obliged_live_eq_nil_iff : f.obliged .live = [] ↔ ∀ q ∈ f.pending, q.1 ∈ f.missable := by
  simp [Fanout.obliged, List.filter_eq_nil_iff]

/-- In live mode an entry of the table as it stands, selected and not yet invoked, is a candidate. -/
theorem mem_candidates_live (hq : q ∈ selectPairs w f.byte) (hnew : q.1 ∉ f.invoked) : q ∈ f.candidates .live w := by
  by_cases hp : q ∈ f.pending
  · exact List.mem_append_left _ hp
  · refine List.mem_append_right _ (List.mem_filter.mpr ⟨hq, ?_⟩)
    simp [hnew, hp]

end

/-- Settles O30: old and new entries are candidates, and every candidate can be picked. -/
theorem liveDispatchAllowsOldAndNew : Obligations.LiveDispatchAllowsOldAndNew := by
  unfold Obligations.LiveDispatchAllowsOldAndNew
  refine fun w f hf => ⟨fun q hq => ?old, fun i h hw hb hnew => ?new, ?ends, fun k q hk => ?once⟩
  case old => exact exists_pick (List.mem_append_left _ hq)
  case new =>
    have hsel : (i, h) ∈ selectPairs w f.byte := mem_selectPairs.mpr ⟨hw, (pinHigh_eq_getLsbD f.byte i).trans hb⟩
    exact exists_pick (mem_candidates_live hsel hnew)
  case ends => rw [exists_pick_none_iff, obliged_live_eq_nil_iff]
  case once =>
    obtain ⟨hnew, hset⟩ := candidate_fresh hf.once hf.owedSet (mem_candidates_of_pick hk)
    exact ⟨hnew, (pinHigh_eq_getLsbD f.byte q.1).symm.trans hset⟩

end Sys2Proof.Machine
end

section
/-! PROOFS. DISP with handlers that do nothing and return (42_interrupt_dispatcher.md R162, R163, R165): its atomic step, the
orders a choice of moves gives, and the run in such an order. -/

namespace Sys2Proof.Machine

/-! ### DISP's atomic step (R162) -/

/-- Only the two ports' DISP commands differ once one port's are set. -/
theorem setDisp_block (s : State) (p : Port) (fs : List Fanout) :
    (s.setDisp p fs).block =
      { s.block with dispS := (s.setDisp p fs).block.dispS, dispA := (s.setDisp p fs).block.dispA } := by
  cases p <;> rfl

theorem setDisp_self (s : State) (p : Port) : s.setDisp p (s.block.disp p) = s := by cases p <;> rfl

theorem outside_setDisp (s : State) (p : Port) (fs : List Fanout) : Outside s (s.setDisp p fs) [] [] [] [] 0 0 0 := by
  cases p <;> exact outside_record s _

theorem outside_endDisp (s : State) (p : Port) (rest : List Fanout) :
    Outside s (endDisp p rest s) [] [] [] [⟨p, responseWord .ok 0x00, none⟩] 0 0 0 :=
  (outside_setDisp s p rest).trans (outside_respondOn _ p .ok 0x00 none)

theorem outside_emit (s : State) (e : Event) : Outside s (s.emit e) [] [] [e] [] 0 0 0 :=
  ⟨⟨by simp, by simp, by simp, by simp⟩, ⟨rfl, rfl, rfl, rfl, rfl, rfl⟩⟩

section
variable {s : State} {p : Port} {f : Fanout} {rest : List Fanout}

theorem settleDisp_over (h : f.over s.mode = true) : settleDisp p f rest s = endDisp p rest s := if_pos h

theorem settleDisp_stands (h : f.over s.mode = false) : settleDisp p f rest s = s.setDisp p (f :: rest) :=
  if_neg (by simp [h])

/-- A dispatch with no handler running is over in snapshot mode when it owes nothing. -/
theorem over_iff {m : DispatchMode} (hf : f.running = none) : f.over m = true ↔ m = .snapshot ∧ f.pending = [] := by
  cases m <;> simp [Fanout.over, hf]

end

/-- The pairs a dispatch selects (R162), each once. -/
theorem mem_selectPairs_iff {w : Vector (Option Tok) 8} {b : Byte} (i : PinIdx) (h : Tok) :
    (i, h) ∈ selectPairs w b ↔ w.get i = some h ∧ b.getLsbD i.val = true := by
  rw [mem_selectPairs, pinHigh_eq_getLsbD]

/-- Settles O26: the copy is `selectPairs`, and the dispatch ends or stands at it as `settleDisp` says. -/
theorem dispTakesTheSelectedEntries : Obligations.DispTakesTheSelectedEntries := by
  unfold Obligations.DispTakesTheSelectedEntries
  intro b s
  refine ⟨_, selectPairs s.block.watch b, rfl, (selectPairs_nodup s.block.watch b).of_map, mem_selectPairs_iff, ?_⟩
  have hover : (startFanout b s).over s.mode = true ↔ s.mode = .snapshot ∧ selectPairs s.block.watch b = [] :=
    over_iff rfl
  by_cases hnone : s.mode = .snapshot ∧ selectPairs s.block.watch b = []
  · have hrun : startDisp b s = endDisp s.turn (s.block.disp s.turn) s := settleDisp_over (hover.mpr hnone)
    have hblock : (endDisp s.turn (s.block.disp s.turn) s).block = s.block := by
      rw [endDisp, respondOn_block, setDisp_self]
    obtain ⟨hgrew, hused⟩ := outside_endDisp s s.turn (s.block.disp s.turn)
    rw [hrun, hblock]
    refine ⟨fun _ _ => rfl, rfl, hused, fun _ _ => ⟨rfl, hgrew⟩, fun h => ?_⟩
    rcases h with hlive | hsome
    · exact absurd (hnone.1.symm.trans hlive) nofun
    · exact absurd hnone.2 hsome
  · have hrun : startDisp b s = s.setDisp s.turn (startFanout b s :: s.block.disp s.turn) :=
      settleDisp_stands (Bool.eq_false_iff.mpr (mt hover.mp hnone))
    obtain ⟨hgrew, hused⟩ := outside_setDisp s s.turn (startFanout b s :: s.block.disp s.turn)
    rw [hrun]
    exact ⟨fun q hq => setDisp_disp_of_ne s s.turn q _ hq, setDisp_block s s.turn _, hused,
      fun hm hS => absurd ⟨hm, hS⟩ hnone, fun _ => ⟨setDisp_disp_same s s.turn _, hgrew⟩⟩

/-! ### The order that the choices give (R165) -/

/-- Under the choices `ks` a dispatch at `f` in snapshot mode, each handler returning before the next is invoked, invokes
the handlers of `qs` in this order and owes nothing more. -/
inductive FansOut (w : Vector (Option Tok) 8) : Fanout → List Nat → List (PinIdx × Tok) → Prop
  | nil {f : Fanout} (h : f.pending = []) : FansOut w f [] []
  | cons {f : Fanout} {k : Nat} {q : PinIdx × Tok} {ks : List Nat} {qs : List (PinIdx × Tok)}
      (hq : f.pick .snapshot w k = some q) (h : FansOut w (f.invoke q).returned ks qs) : FansOut w f (k :: ks) (q :: qs)

section
variable {w : Vector (Option Tok) 8} {f : Fanout} {q : PinIdx × Tok} {qs : List (PinIdx × Tok)} {ks : List Nat}

/-- Where each pin is owed once, an invocation takes its own pair off and no other. -/
theorem invoke_pending (hn : (f.pending.map Prod.fst).Nodup) (hq : q ∈ f.pending) :
    (f.invoke q).pending = f.pending.erase q := by
  rw [hn.of_map.erase_eq_filter]
  refine List.filter_congr fun r hr => ?_
  have hinj : r.1 = q.1 ↔ r = q := ⟨fun h => List.inj_on_of_nodup_map hn hr hq h, fun h => h ▸ rfl⟩
  simp only [bne, beq_eq_decide, hinj]

theorem invoke_pending_nodup (hn : (f.pending.map Prod.fst).Nodup) :
    (((f.invoke q).returned.pending).map Prod.fst).Nodup :=
  hn.sublist (List.filter_sublist.map _)

/-- What is invoked is what was owed. -/
theorem FansOut.perm (h : FansOut w f ks qs) (hn : (f.pending.map Prod.fst).Nodup) : qs.Perm f.pending := by
  induction h with
  | nil h => rw [h]
  | @cons f k q ks qs hq _ ih =>
    have hmem : q ∈ f.pending := mem_candidates_of_pick hq
    have hperm := ih (invoke_pending_nodup hn)
    rw [Fanout.returned, invoke_pending hn hmem] at hperm
    exact (hperm.cons q).trans (List.perm_cons_erase hmem).symm

/-- As many choices as pairs are owed give an order, whatever they are. -/
theorem exists_fansOut (hn : (f.pending.map Prod.fst).Nodup) (hlen : ks.length = f.pending.length) :
    ∃ qs, FansOut w f ks qs := by
  induction ks generalizing f with
  | nil => exact ⟨[], .nil (List.length_eq_zero_iff.mp hlen.symm)⟩
  | cons k ks ih =>
    rcases pick_cases (m := .snapshot) (w := w) (k := k) (f := f) with ⟨q, hq, hmem⟩ | ⟨-, hnone⟩
    · have hmem : q ∈ f.pending := hmem
      have hrest : ks.length = ((f.invoke q).returned.pending).length := by
        rw [Fanout.returned, invoke_pending hn hmem, List.length_erase_of_mem hmem, ← hlen]
        rfl
      obtain ⟨qs, hqs⟩ := ih (invoke_pending_nodup hn) hrest
      exact ⟨q :: qs, .cons hq hqs⟩
    · rw [show f.pending = [] from hnone] at hlen
      cases hlen

/-- Every order of the pairs owed is given by some choices. -/
theorem exists_choices (hn : (f.pending.map Prod.fst).Nodup) (hqs : qs.Perm f.pending) : ∃ ks, FansOut w f ks qs := by
  induction qs generalizing f with
  | nil => exact ⟨[], .nil hqs.nil_eq.symm⟩
  | cons q qs ih =>
    obtain ⟨hmem, hperm⟩ := List.cons_perm_iff_perm_erase.mp hqs
    obtain ⟨k, hk⟩ := exists_pick (m := .snapshot) (w := w) hmem
    rw [← invoke_pending hn hmem] at hperm
    obtain ⟨ks, hks⟩ := ih (f := (f.invoke q).returned) (invoke_pending_nodup hn) hperm
    exact ⟨k :: ks, .cons hk hks⟩

theorem FansOut.length_eq (h : FansOut w f ks qs) : ks.length = qs.length := by
  induction h with
  | nil => rfl
  | cons _ _ ih => exact congrArg (· + 1) ih

end

/-! ### The run in that order -/

/-- For each choice a grant to port `p` and then the return of the handler that it invoked. -/
def invocations (p : Port) (ks : List Nat) : List Move := ks.flatMap fun k => [.advance p k, .ret p]

section
variable {s : State} {p : Port} {f : Fanout} {rest : List Fanout} {k : Nat} {q : PinIdx × Tok} {ms : List Move}

/-- A grant to a port whose innermost dispatch has no handler running invokes the next. -/
theorem step_advanceDisp (hm : s.env.moves = .advance p k :: ms) (hp : s.block.pulse p = .idle)
    (hd : s.block.disp p = f :: rest) (hr : f.running = none) :
    step s = .next (advanceDisp p k f rest (s.withMoves ms)) := by
  have hadv : advanceHandlers p k (s.withMoves ms) = advanceDisp p k f rest (s.withMoves ms) := by
    simp only [advanceHandlers, withMoves_block, hd, hr, Option.isNone_none, if_true]
  rw [← hadv, ← advance_idle (s := s.withMoves ms) hp]
  simp only [step, stepWith, hm, runMove]

/-- A return on a port whose innermost dispatch has a handler running is that handler's. -/
theorem step_returnDisp (hm : s.env.moves = .ret p :: ms) (hp : s.block.pulse p = .idle)
    (hd : s.block.disp p = f :: rest) (hr : f.running.isSome = true) :
    step s = .next (settleDisp p f.returned rest (s.withMoves ms)) := by
  have hmay : (s.withMoves ms).mayReturn p = true :=
    Bool.and_eq_true_iff.mpr ⟨beq_iff_eq.mpr hp, (handlerRunning_of_disp (s := s.withMoves ms) hd).trans hr⟩
  simp only [step, stepWith, hm, runMove, if_pos hmay, handlerReturn, withMoves_block, hd]

/-- Replacing a port's DISP commands forgets what they were. -/
theorem settleDisp_setDisp (fs : List Fanout) : settleDisp p f rest (s.setDisp p fs) = settleDisp p f rest s := by
  cases p <;> rfl

theorem setDisp_withMoves (fs : List Fanout) : (s.setDisp p fs).withMoves ms = (s.withMoves ms).setDisp p fs := by
  cases p <;> rfl

/-- The grant invokes the pair picked. -/
theorem step_setDisp_advance (hm : s.env.moves = .advance p k :: ms) (hmode : s.mode = .snapshot)
    (hp : s.block.pulse p = .idle) (hf : f.running = none) (hq : f.pick .snapshot s.block.watch k = some q) :
    core.step (s.setDisp p (f :: rest)) =
      .next (((s.withMoves ms).emit (.pin q.2 q.1)).setDisp p (f.invoke q :: rest)) := by
  have hinvoke : advanceDisp p k f rest ((s.setDisp p (f :: rest)).withMoves ms) =
      ((s.withMoves ms).emit (.pin q.2 q.1)).setDisp p (f.invoke q :: rest) := by
    simp only [advanceDisp, withMoves_mode, withMoves_block, setDisp_mode, setDisp_watch, hmode, hq]
    cases p <;> rfl
  rw [← hinvoke]
  exact step_advanceDisp (by rw [setDisp_env, hm]) (by rwa [setDisp_pulse]) (setDisp_disp_same s p _) hf

theorem step_setDisp_return (hm : s.env.moves = .ret p :: ms) (hp : s.block.pulse p = .idle)
    (hr : f.running.isSome = true) :
    core.step (s.setDisp p (f :: rest)) = .next (settleDisp p f.returned rest (s.withMoves ms)) := by
  rw [← settleDisp_setDisp (f :: rest), ← setDisp_withMoves]
  exact step_returnDisp (by rw [setDisp_env, hm]) (by rwa [setDisp_pulse]) (setDisp_disp_same s p _) hr

/-- One handler invoked and returned: the dispatch stands or ends at what it owes then. -/
theorem run_invocation (hm : s.env.moves = .advance p k :: .ret p :: ms) (hmode : s.mode = .snapshot)
    (hp : s.block.pulse p = .idle) (hf : f.running = none) (hq : f.pick .snapshot s.block.watch k = some q) :
    core.run 2 (settleDisp p f rest s) =
      .next (settleDisp p (f.invoke q).returned rest ((s.withMoves ms).emit (.pin q.2 q.1))) := by
  have howed : f.pending ≠ [] := List.ne_nil_of_mem (mem_candidates_of_pick hq)
  have hstands : settleDisp p f rest s = s.setDisp p (f :: rest) :=
    settleDisp_stands (Bool.eq_false_iff.mpr fun h => howed ((over_iff hf).mp h).2)
  rw [hstands, run_succ (step_setDisp_advance hm hmode hp hf hq)]
  exact run_succ (step_setDisp_return rfl hp rfl)

/-- From where a dispatch stands, to its response. -/
theorem run_fansOut {w : Vector (Option Tok) 8} {ks : List Nat} {qs : List (PinIdx × Tok)} (h : FansOut w f ks qs)
    (hw : s.block.watch = w) (hmode : s.mode = .snapshot) (hp : s.block.pulse p = .idle) (hf : f.running = none)
    (hm : s.env.moves = invocations p ks ++ ms) :
    ∃ t, core.run (2 * ks.length) (settleDisp p f rest s) = .next t ∧ t.block = (s.setDisp p rest).block ∧
      t.env.moves = ms ∧ Grew s t [] [] (qs.map fun q => .pin q.2 q.1) [⟨p, responseWord .ok 0x00, none⟩] := by
  induction h generalizing s with
  | nil hnone =>
    refine ⟨endDisp p rest s, ?_, rfl, ?_, (outside_endDisp s p rest).1⟩
    · rw [settleDisp_over ((over_iff hf).mpr ⟨hmode, hnone⟩)]; rfl
    · rw [(outside_endDisp s p rest).2.moves, hm]; rfl
  | @cons f k q ks qs hq _ ih =>
    have hfirst := run_invocation (rest := rest) (ms := invocations p ks ++ ms) hm hmode hp hf (hw ▸ hq)
    obtain ⟨t, hrun, hblock, hmoves, hgrew⟩ :=
      ih (s := (s.withMoves (invocations p ks ++ ms)).emit (.pin q.2 q.1)) hw hmode hp rfl rfl
    refine ⟨t, ?_, hblock.trans (by cases p <;> rfl), hmoves, (outside_emit s _).1.trans (hgrew.of_hist rfl)⟩
    have hlen : 2 * (k :: ks).length = 2 + 2 * ks.length := by rw [List.length_cons]; omega
    rw [hlen, run_add hfirst, hrun]

/-- A whole DISP in snapshot mode, its handlers only returning: the record is as before (R162, R163). -/
theorem run_disp {b : Byte} {ks : List Nat} {qs : List (PinIdx × Tok)} (hmode : s.mode = .snapshot)
    (hmay : s.mayCommand p = true) (h : FansOut s.block.watch (startFanout b s) ks qs)
    (hm : s.env.moves = .command p (encode (.disp b)) :: (invocations p ks ++ ms)) :
    ∃ t, core.run (2 * ks.length + 1) s = .next t ∧ t.block = s.block ∧ t.env.moves = ms ∧
      Grew s t [] [] (qs.map fun q => .pin q.2 q.1) [⟨p, responseWord .ok 0x00, none⟩] := by
  have hissue : core.step s = exec (.disp b) ((s.withMoves (invocations p ks ++ ms)).onPort p) :=
    step_legal hm hmay (decodeEncodeRoundTrip (.disp b))
  obtain ⟨t, hrun, hblock, hmoves, hgrew⟩ := run_fansOut (s := (s.withMoves (invocations p ks ++ ms)).onPort p)
    (rest := s.block.disp p) h rfl hmode (pulse_idle_of_mayCommand hmay) rfl rfl
  have hrestored := congrArg State.block (setDisp_self ((s.withMoves (invocations p ks ++ ms)).onPort p) p)
  exact ⟨t, (run_succ hissue).trans hrun, hblock.trans hrestored, hmoves, hgrew.of_hist rfl⟩

theorem startFanout_pending_nodup (b : Byte) (s : State) : ((startFanout b s).pending.map Prod.fst).Nodup :=
  selectPairs_nodup s.block.watch b

end

/-- Settles O27: whatever the choices, they give some order of the selected pairs. -/
theorem dispInvokesEverySelectedHandlerOnce : Obligations.DispInvokesEverySelectedHandlerOnce := by
  unfold Obligations.DispInvokesEverySelectedHandlerOnce
  intro p b s ks ms hmode hmay hlen hm
  have hn := startFanout_pending_nodup b s
  obtain ⟨qs, hqs⟩ := exists_fansOut (w := s.block.watch) hn hlen
  have hperm : qs.Perm (selectPairs s.block.watch b) := hqs.perm hn
  obtain ⟨t, hrun, hblock, hmoves, hgrew⟩ := run_disp hmode hmay hqs hm
  exact ⟨t, qs, hrun, hperm.nodup_iff.mpr hn.of_map, fun i h => hperm.mem_iff.trans (mem_selectPairs_iff i h), hblock,
    hmoves, hgrew⟩

/-- Settles O28: for every order of the selected pairs there are choices that give it. -/
theorem everyFanoutOrderCanHappen : Obligations.EveryFanoutOrderCanHappen := by
  unfold Obligations.EveryFanoutOrderCanHappen
  intro p b s qs ms hmode hmay hperm
  obtain ⟨ks, hks⟩ := exists_choices (w := s.block.watch) (f := startFanout b s) (startFanout_pending_nodup b s) hperm
  obtain ⟨t, hrun, hblock, hmoves, hgrew⟩ := run_disp
    (s := s.withMoves (.command p (encode (.disp b)) :: (invocations p ks ++ ms))) hmode hmay hks rfl
  exact ⟨ks, t, hks.length_eq, hrun, hblock, hmoves, hgrew.of_hist rfl⟩

end Sys2Proof.Machine
end

section
/-! PROOFS. The error endings of the commands (60_exceptions.md R200 to R202): how the step of each command ends, said once,
and from it which errors it may end with and what an error leaves. -/

namespace Sys2Proof.Machine

/-! ### The status of a response -/

theorem Status.code_injective : Function.Injective Status.code := by
  intro st st'
  cases st <;> cases st' <;> decide

theorem status_eq_of_responseWord_eq {st st' : Status} {v v' : Byte} (h : responseWord st v = responseWord st' v') :
    st = st' := by
  apply Status.code_injective
  rw [← responseWord_status st v, h, responseWord_status]

/-- A history cannot have grown by responses of two statuses. -/
theorem status_eq_of_responses_eq {l : List Response} {p p' : Port} {st st' : Status} {v v' : Byte} {d d' : Option Nat}
    (h : l ++ [⟨p, responseWord st v, d⟩] = l ++ [⟨p', responseWord st' v', d'⟩]) : st = st' :=
  status_eq_of_responseWord_eq (congrArg Response.word (List.singleton_inj.mp (List.append_cancel_left h)))

/-! ### How the step of a command ends -/

/-- A command's step from `s` to `t` ends with no response yet, with OK, or with one of the errors `errs`; an error leaves
the record as it was, where the port had no PPULSE in progress. -/
inductive Ends (errs : List Status) (s t : State) : Prop
  | pending (h : t.hist.responses = s.hist.responses)
  | ok (v : Byte) (h : t.hist.responses = s.hist.responses ++ [⟨s.turn, responseWord .ok v, none⟩])
  | error (st : Status) (v : Byte) (hst : st ∈ errs)
      (h : t.hist.responses = s.hist.responses ++ [⟨s.turn, responseWord st v, none⟩])
      (hblock : s.block.pulse s.turn = .idle → t.block = s.block)

section
variable {s t : State} {errs : List Status}

theorem writeCommand_ends (r : Reg) (b : Byte) (s : State) : Ends [.errBus] s (writeCommand r b s) := by
  rcases deviceWrite_cases r b s with h | ⟨e, h⟩ <;> simp only [writeCommand, h]
  · exact .ok 0x00 rfl
  · exact .error .errBus e (.head _) rfl fun _ => rfl

theorem watchCommand_ends (i : PinIdx) (k : Tok) (s : State) : Ends [.errBus] s (watchCommand i k s) := by
  rcases deviceWrite_cases .cfg (mergeBit (s.x .cfg) i true) s with h | ⟨e, h⟩ <;> simp only [watchCommand, h]
  · exact .ok 0x00 rfl
  · exact .error .errBus e (.head _) rfl fun _ => rfl

theorem readCommand_ends (r : Reg) (s : State) : Ends [.errBus] s (readCommand r s) := by
  rcases deviceRead_cases r s with ⟨b, -, h⟩ | ⟨e, -, h⟩ <;> simp only [readCommand, h]
  · exact .ok b rfl
  · exact .error .errBus e (.head _) rfl fun _ => rfl

theorem preadCommand_ends (i : PinIdx) (s : State) : Ends [.errBus] s (preadCommand i s) := by
  rcases deviceRead_cases .inp s with ⟨b, -, h⟩ | ⟨e, -, h⟩ <;> simp only [preadCommand, h]
  · exact .ok _ rfl
  · exact .error .errBus e (.head _) rfl fun _ => rfl

/-- A failed first poll puts the port's phase back to idle, where it was. -/
theorem pollError_block_of_idle {p : Port} {e : Byte} (hp : s.block.pulse p = .idle) :
    (s.pollError p e).block = s.block := by
  have hself := setPulse_self (s := s.tookBus.logBus (.read s.block.address .inp (.err e))) hp
  rw [State.pollError, pollFailed, hself]
  rfl

theorem drainPoll_ends (i : PinIdx) (l : Level) (s : State) : Ends [.errBus] s (drainPoll s.turn i l s) := by
  cases hr : s.busReply with
  | ok b =>
    refine .pending ?_
    rw [drainPoll_ok hr, setPulse_hist]
    rfl
  | err e =>
    obtain ⟨hgrew, -⟩ := outside_pollError s s.turn e
    rw [drainPoll_err hr]
    exact .error .errBus e (.head _) hgrew.responses pollError_block_of_idle

theorem settleDisp_ends (f : Fanout) (rest : List Fanout) (s : State) : Ends [] s (settleDisp s.turn f rest s) := by
  unfold settleDisp
  split
  · obtain ⟨hgrew, -⟩ := outside_endDisp s s.turn rest
    exact .ok 0x00 hgrew.responses
  · exact .pending (by rw [setDisp_hist])

/-- Every command's step ends with no response yet, with OK, or with one of the command's errors (R201). -/
theorem exec_ends {i : Instr} (h : exec i s = .next t) : Ends (errorsOf i) s t := by
  cases i with
  | setint xp k =>
    rcases setint_cases h with ⟨-, rfl⟩ | ⟨-, -, rfl⟩ | ⟨-, -, -, rfl⟩ | ⟨-, -, -, rfl⟩
    · exact .error .errConflict 0x00 (.head _) rfl fun _ => rfl
    · exact .error .errXPin 0x00 (.tail _ (.head _)) rfl fun _ => rfl
    · exact .error .errXPin 0x00 (.tail _ (.head _)) rfl fun _ => rfl
    · exact .ok 0x00 rfl
  | close =>
    rcases close_cases h with ⟨-, rfl⟩ | ⟨-, -, rfl⟩ | ⟨-, -, rfl⟩
    · exact .ok 0x00 rfl
    · exact .ok 0x00 rfl
    · exact .error .errXPin 0x00 (.head _) rfl fun _ => rfl
  | reg i k | unreg i | pstop i => cases h; exact .ok 0x00 rfl
  | ppull i k => cases h; exact .error .errUnsupported 0x00 (.head _) rfl fun _ => rfl
  | disp b => cases h; exact settleDisp_ends _ _ s
  | wrcfg b | wrpol b | wrout b | pdir i d | pactlow i a | pwrite i l =>
    obtain ⟨-, rfl⟩ := guardBus_eq_next h
    exact writeCommand_ends _ _ s
  | rdin | rdout | rdcfg | rdpol => obtain ⟨-, rfl⟩ := guardBus_eq_next h; exact readCommand_ends _ s
  | pread i => obtain ⟨-, rfl⟩ := guardBus_eq_next h; exact preadCommand_ends i s
  | pwatch i e k => obtain ⟨-, rfl⟩ := guardBus_eq_next h; exact watchCommand_ends i k s
  | ppulse i l => obtain ⟨-, rfl⟩ := guardBus_eq_next h; exact drainPoll_ends i l s

/-! ### The responses of a command (R201) -/

theorem Ends.responses (h : Ends errs s t) :
    ∃ l, t.hist.responses = s.hist.responses ++ l ∧ l.length ≤ 1 ∧
      ∀ r ∈ l, r.port = s.turn ∧ ∃ st v, r.word = responseWord st v ∧ (st = .ok ∨ st ∈ errs) := by
  cases h with
  | pending h => exact ⟨[], by rw [h, List.append_nil], Nat.zero_le 1, nofun⟩
  | ok v h => exact ⟨_, h, le_rfl, List.forall_mem_singleton.mpr ⟨rfl, .ok, v, rfl, .inl rfl⟩⟩
  | error st v hst h _ => exact ⟨_, h, le_rfl, List.forall_mem_singleton.mpr ⟨rfl, st, v, rfl, .inr hst⟩⟩

/-- SETINT answers the conflict where a pin is bound, and where none is another status (R117, R206). -/
theorem setint_conflict_iff {xp k : Tok} (h : exec (.setint xp k) s = .next t) :
    t.hist.responses = s.hist.responses ++ [⟨s.turn, responseWord .errConflict 0x00, none⟩] ↔
      s.block.intBound = true := by
  rcases setint_cases h with ⟨hb, rfl⟩ | ⟨hb, -, rfl⟩ | ⟨hb, -, -, rfl⟩ | ⟨hb, -, -, rfl⟩
  · exact iff_of_true rfl hb
  all_goals
    refine iff_of_false (fun hr => ?_) (Bool.eq_false_iff.mp hb)
    exact absurd (status_eq_of_responses_eq hr) (by decide)

end

/-- Settles O45: the command's step ends as `exec_ends` says, and SETINT's conflict is one of its four ways to end. -/
theorem commandsEndWithTheirErrors : Obligations.CommandsEndWithTheirErrors := by
  unfold Obligations.CommandsEndWithTheirErrors
  refine fun i s t h => ⟨(exec_ends h).responses, ?setint, ?ppull⟩
  case setint => rintro xp k rfl; exact setint_conflict_iff h
  case ppull => rintro q k rfl; cases h; rfl

/-! ### An error leaves the record (R202) -/

theorem Ends.block_of_error {errs : List Status} {s t : State} {st : Status} {v : Byte} {d : Option Nat}
    (h : Ends errs s t) (hidle : s.block.pulse s.turn = .idle)
    (hr : t.hist.responses = s.hist.responses ++ [⟨s.turn, responseWord st v, d⟩]) (hst : st ≠ .ok) :
    t.block = s.block := by
  cases h with
  | pending h => exact absurd (List.self_eq_append_right.mp (h.symm.trans hr)) (List.cons_ne_nil _ _)
  | ok v h => exact absurd (status_eq_of_responses_eq (hr.symm.trans h)) hst
  | error _ _ _ _ hblock => exact hblock hidle

/-- Settles O46: of the ways a command's step ends, the one with an error leaves the record. -/
theorem failedCommandsLeaveTheRecord : Obligations.FailedCommandsLeaveTheRecord := by
  unfold Obligations.FailedCommandsLeaveTheRecord
  exact fun _ _ _ _ _ _ hidle h hr hst => (exec_ends h).block_of_error hidle hr hst

end Sys2Proof.Machine
end

section
/-! PROOFS. The service sequence (60_exceptions.md R210, R211): the served edge event, the abort after a failed read, and
the whole sequence with handlers that do nothing and return. -/

namespace Sys2Proof.Machine

/-! ### The edge event (R210) -/

section
variable {s : State} {b e : Byte} {ms : List Move}

theorem step_edge (hm : s.env.moves = .edge :: ms) : step s = serveEdge (s.withMoves ms) := by
  simp only [step, stepWith, hm, runMove]

theorem serveEdge_bound (hsvc : s.block.svc = .idle) (hb : s.block.intBound = true) (hs : s.busSilent = false) :
    serveEdge s = .next (serviceEntry s) := by
  rw [serveEdge, if_pos hsvc, if_pos hb, guardBus_answered hs]

theorem serveEdge_unbound (hsvc : s.block.svc = .idle) (hb : s.block.intBound = false) : serveEdge s = .next s := by
  rw [serveEdge, if_pos hsvc, if_neg (Bool.eq_false_iff.mp hb)]

/-- With no sequence in progress and a pin bound, an edge event is served where the bus answers. -/
theorem step_edge_bound (hm : s.env.moves = .edge :: ms) (hsvc : s.block.svc = .idle) (hb : s.block.intBound = true)
    (hs : s.busSilent = false) : step s = .next (serviceEntry (s.withMoves ms)) :=
  (step_edge hm).trans (serveEdge_bound (s := s.withMoves ms) hsvc hb hs)

theorem serviceEntry_ok (hr : s.busReply = .ok b) :
    serviceEntry s = (s.readInput b).setSvc (.top s.block.intHandler (b &&& s.block.cache.cfg) false) := by
  rw [serviceEntry, deviceRead_inp_ok hr]
  rfl

theorem serviceEntry_err (hr : s.busReply = .err e) :
    serviceEntry s = (s.tookBus.logBus (.read s.block.address .inp (.err e))).setSvc (.failed e) := by
  rw [serviceEntry, deviceRead_err hr]

theorem outside_setSvc (s : State) (v : Svc) : Outside s (s.setSvc v) [] [] [] [] 0 0 0 := outside_record s _

end

/-- Settles O31: a served edge event whose read succeeds is a read of the input register and the latch. -/
theorem edgeReadsAndMasks : Obligations.EdgeReadsAndMasks := by
  unfold Obligations.EdgeReadsAndMasks
  intro b s ms hm hsvc hb hs hr
  have hstep := step_edge_bound hm hsvc hb hs
  rw [serviceEntry_ok (s := s.withMoves ms) hr] at hstep
  obtain ⟨hgrew, hused⟩ := (outside_readInput (s.withMoves ms) b).trans (outside_setSvc _ _)
  exact ⟨_, hstep, rfl, hgrew.of_hist rfl, hused⟩

/-- Settles O34: with no pin bound only the move is used up. -/
theorem edgeWhileUnboundIsDiscarded : Obligations.EdgeWhileUnboundIsDiscarded :=
  fun s ms hm hsvc hb => (step_edge hm).trans (serveEdge_unbound (s := s.withMoves ms) hsvc hb)

/-! ### A step of the service sequence on a free port A -/

section
variable {s : State} {f : Fanout} {q : PinIdx × Tok} {h : Tok} {m e : Byte} {k : Nat} {ms : List Move}

/-- While port A has no command in progress, a grant to it is the service sequence's. -/
theorem step_advanceService (hm : s.env.moves = .advance .portA k :: ms) (hd : s.block.disp .portA = [])
    (hp : s.block.pulse .portA = .idle) : step s = .next (advanceService k (s.withMoves ms)) := by
  have hadv : advanceHandlers .portA k (s.withMoves ms) = advanceService k (s.withMoves ms) := by
    simp only [advanceHandlers, withMoves_block, hd]
  rw [← hadv, ← advance_idle (s := s.withMoves ms) hp]
  simp only [step, stepWith, hm, runMove]

/-- While port A has no command in progress, a return on it is that of the service sequence's handler. -/
theorem step_returnService (hm : s.env.moves = .ret .portA :: ms) (hd : s.block.disp .portA = [])
    (hp : s.block.pulse .portA = .idle) (hr : s.block.svc.handlerRunning = true) :
    step s = .next (handlerReturn .portA (s.withMoves ms)) := by
  have hmay : (s.withMoves ms).mayReturn .portA = true :=
    Bool.and_eq_true_iff.mpr ⟨beq_iff_eq.mpr hp, (handlerRunning_of_no_disp (s := s.withMoves ms) hd).trans hr⟩
  simp only [step, stepWith, hm, runMove, if_pos hmay]

theorem handlerReturn_top (hd : s.block.disp .portA = []) (hs : s.block.svc = .top h m true) :
    handlerReturn .portA s = settleSvc (startFanout m s) s := by
  simp only [handlerReturn, hd, hs]

theorem handlerReturn_fanout (hd : s.block.disp .portA = []) (hs : s.block.svc = .fanout f) :
    handlerReturn .portA s = settleSvc f.returned s := by
  simp only [handlerReturn, hd, hs]

theorem settleSvc_over (ho : f.over s.mode = true) : settleSvc f s = s.setSvc .idle := if_pos ho

theorem settleSvc_stands (ho : f.over s.mode = false) : settleSvc f s = s.setSvc (.fanout f) := if_neg (by simp [ho])

section
variable (hd : s.block.disp .portA = []) (hp : s.block.pulse .portA = .idle)
include hd hp

/-- The grant emits `TOP`. -/
theorem step_setSvc_top (hm : s.env.moves = .advance .portA k :: ms) :
    core.step (s.setSvc (.top h m false)) = .next (((s.withMoves ms).emit (.top h m)).setSvc (.top h m true)) :=
  step_advanceService hm hd hp

/-- After the top-level handler the fan-out begins. -/
theorem step_setSvc_top_return (hm : s.env.moves = .ret .portA :: ms) :
    core.step (s.setSvc (.top h m true)) = .next (settleSvc (startFanout m s) (s.withMoves ms)) := by
  have hret : handlerReturn .portA ((s.withMoves ms).setSvc (.top h m true)) =
      settleSvc (startFanout m s) (s.withMoves ms) := handlerReturn_top hd rfl
  rw [← hret]
  exact step_returnService hm hd hp rfl

/-- The top-level handler invoked and returned. -/
theorem run_setSvc_top (hm : s.env.moves = .advance .portA k :: .ret .portA :: ms) :
    core.run 2 (s.setSvc (.top h m false)) = .next (settleSvc (startFanout m s) ((s.withMoves ms).emit (.top h m))) := by
  rw [run_succ (step_setSvc_top hd hp hm)]
  exact run_succ (step_setSvc_top_return (s := (s.withMoves _).emit _) hd hp rfl)

/-- The grant invokes the pair picked. -/
theorem step_setSvc_fanout (hm : s.env.moves = .advance .portA k :: ms) (hmode : s.mode = .snapshot)
    (hf : f.running = none) (hq : f.pick .snapshot s.block.watch k = some q) :
    core.step (s.setSvc (.fanout f)) = .next (((s.withMoves ms).emit (.pin q.2 q.1)).setSvc (.fanout (f.invoke q))) := by
  have hinvoke : advanceService k ((s.withMoves ms).setSvc (.fanout f)) =
      ((s.withMoves ms).emit (.pin q.2 q.1)).setSvc (.fanout (f.invoke q)) := by
    simp only [advanceService, advanceSvc, setSvc_svc, setSvc_mode, setSvc_watch, withMoves_mode, withMoves_block, hf,
      Option.isNone_none, if_true, hmode, hq]
    rfl
  rw [← hinvoke]
  exact step_advanceService hm hd hp

theorem step_setSvc_fanout_return (hm : s.env.moves = .ret .portA :: ms) (hr : f.running.isSome = true) :
    core.step (s.setSvc (.fanout f)) = .next (settleSvc f.returned (s.withMoves ms)) := by
  have hret : handlerReturn .portA ((s.withMoves ms).setSvc (.fanout f)) = settleSvc f.returned (s.withMoves ms) :=
    handlerReturn_fanout hd rfl
  rw [← hret]
  exact step_returnService hm hd hp hr

/-- The two steps after a failed read: the flag, then the report (R211). -/
theorem run_setSvc_failed {j : Nat} (hm : s.env.moves = .advance .portA j :: .advance .portA k :: ms) :
    core.run 2 (s.setSvc (.failed e)) = .next ((s.withMoves ms).setAsyncFault.setSvc .idle |>.emit (.asyncErr e)) := by
  have hflag : core.step (s.setSvc (.failed e)) =
      .next ((s.withMoves (.advance .portA k :: ms)).setAsyncFault.setSvc (.report e)) := step_advanceService hm hd hp
  have hreport : core.step ((s.withMoves (.advance .portA k :: ms)).setAsyncFault.setSvc (.report e)) =
      .next ((s.withMoves ms).setAsyncFault.setSvc .idle |>.emit (.asyncErr e)) :=
    step_advanceService (s := (s.withMoves _).setAsyncFault.setSvc (.report e)) rfl hd hp
  rw [run_succ hflag]
  exact run_succ hreport

end
end

/-- Settles O33: the failed read, the flag and the report, and the phase is idle again. -/
theorem failedInterruptReadAborts : Obligations.FailedInterruptReadAborts := by
  unfold Obligations.FailedInterruptReadAborts
  intro e j k s ms hm hsvc hd hp hb hs hr
  have hentry := step_edge_bound hm hsvc hb hs
  rw [serviceEntry_err (s := s.withMoves (.advance .portA j :: .advance .portA k :: ms)) hr] at hentry
  have habort := run_setSvc_failed (e := e) (j := j) (k := k) (ms := ms)
    (s := (s.withMoves (.advance .portA j :: .advance .portA k :: ms)).tookBus.logBus
      (.read s.block.address .inp (.err e))) hd hp rfl
  obtain ⟨hgrew, hused⟩ := ((outside_logBus (s.withMoves ms) (.read s.block.address .inp (.err e))).trans
    (outside_record _ { s.block with asyncFault := true, svc := .idle })).trans (outside_emit _ (.asyncErr e))
  refine ⟨_, (run_succ hentry).trans habort, ?_, hgrew.of_hist rfl, hused⟩
  have hblock : { s.block with asyncFault := true, svc := .idle } = { s.block with asyncFault := true } := by rw [← hsvc]
  exact hblock

/-! ### The whole sequence (R210) -/

/-- `s` after a read of the input register that the bus answers with `b` and the `TOP` that follows. -/
def State.afterTop (b : Byte) (s : State) : State :=
  (s.readInput b).emit (.top s.block.intHandler (b &&& s.block.cache.cfg))

theorem outside_afterTop (s : State) (b : Byte) :
    Outside s (s.afterTop b) [.read s.block.address .inp (.ok b)] []
      [.top s.block.intHandler (b &&& s.block.cache.cfg)] [] 1 0 0 :=
  (outside_readInput s b).trans (outside_emit _ _)

section
variable {s : State} {f : Fanout} {q : PinIdx × Tok} {b : Byte} {k : Nat} {ms : List Move}
  {ks : List Nat} {qs : List (PinIdx × Tok)}

/-- The served edge event and the top-level handler: then the sequence's fan-out begins. -/
theorem run_service_top (hsvc : s.block.svc = .idle) (hd : s.block.disp .portA = []) (hp : s.block.pulse .portA = .idle)
    (hb : s.block.intBound = true) (hs : s.busSilent = false) (hr : s.busReply = .ok b)
    (hm : s.env.moves = .edge :: .advance .portA k :: .ret .portA :: ms) :
    core.run 3 s = .next (settleSvc (startFanout (b &&& s.block.cache.cfg) s) ((s.withMoves ms).afterTop b)) := by
  have hentry : core.step s = .next (serviceEntry (s.withMoves (.advance .portA k :: .ret .portA :: ms))) :=
    step_edge_bound hm hsvc hb hs
  rw [serviceEntry_ok (s := s.withMoves (.advance .portA k :: .ret .portA :: ms)) hr] at hentry
  rw [run_succ hentry]
  exact run_setSvc_top (s := (s.withMoves (.advance .portA k :: .ret .portA :: ms)).readInput b) hd hp rfl

/-- One handler invoked and returned: the fan-out stands or ends at what it owes then. -/
theorem run_service_invocation (hd : s.block.disp .portA = []) (hp : s.block.pulse .portA = .idle)
    (hm : s.env.moves = .advance .portA k :: .ret .portA :: ms) (hmode : s.mode = .snapshot)
    (hf : f.running = none) (hq : f.pick .snapshot s.block.watch k = some q) :
    core.run 2 (settleSvc f s) = .next (settleSvc (f.invoke q).returned ((s.withMoves ms).emit (.pin q.2 q.1))) := by
  have howed : f.pending ≠ [] := List.ne_nil_of_mem (mem_candidates_of_pick hq)
  have hstands : settleSvc f s = s.setSvc (.fanout f) :=
    settleSvc_stands (Bool.eq_false_iff.mpr fun h => howed ((over_iff hf).mp h).2)
  rw [hstands, run_succ (step_setSvc_fanout hd hp hm hmode hf hq)]
  exact run_succ (step_setSvc_fanout_return (s := (s.withMoves _).emit _) hd hp rfl rfl)

/-- From where the sequence's fan-out stands, to its end. -/
theorem run_service_fansOut {w : Vector (Option Tok) 8} (h : FansOut w f ks qs) (hw : s.block.watch = w)
    (hmode : s.mode = .snapshot) (hd : s.block.disp .portA = []) (hp : s.block.pulse .portA = .idle)
    (hf : f.running = none) (hm : s.env.moves = invocations .portA ks ++ ms) :
    ∃ t, core.run (2 * ks.length) (settleSvc f s) = .next t ∧ t.block = (s.setSvc .idle).block ∧ t.env.moves = ms ∧
      Grew s t [] [] (qs.map fun q => .pin q.2 q.1) [] := by
  induction h generalizing s with
  | nil hnone =>
    refine ⟨s.setSvc .idle, ?_, rfl, hm, (outside_setSvc s .idle).1⟩
    rw [settleSvc_over ((over_iff hf).mpr ⟨hmode, hnone⟩)]
    rfl
  | @cons f k q ks qs hq _ ih =>
    have hfirst := run_service_invocation (ms := invocations .portA ks ++ ms) hd hp hm hmode hf (hw ▸ hq)
    obtain ⟨t, hrun, hblock, hmoves, hgrew⟩ :=
      ih (s := (s.withMoves (invocations .portA ks ++ ms)).emit (.pin q.2 q.1)) hw hmode hd hp rfl rfl
    refine ⟨t, ?_, hblock, hmoves, (outside_emit s _).1.trans (hgrew.of_hist rfl)⟩
    have hlen : 2 * (k :: ks).length = 2 + 2 * ks.length := by rw [List.length_cons]; omega
    rw [hlen, run_add hfirst, hrun]

end

/-- Settles O32: the served edge event, the top-level handler, and then whatever order the choices give. -/
theorem serviceInvokesTopThenEveryWatchedPin : Obligations.ServiceInvokesTopThenEveryWatchedPin := by
  unfold Obligations.ServiceInvokesTopThenEveryWatchedPin
  intro b k0 s ks ms as hmode hsvc hd hp hb hbus hlen hm
  have hs : s.busSilent = false := by simp only [State.busSilent, hbus]
  have hr : s.busReply = .ok b := by simp only [State.busReply, hbus]
  have hn := startFanout_pending_nodup (b &&& s.block.cache.cfg) s
  obtain ⟨qs, hqs⟩ := exists_fansOut (w := s.block.watch) hn hlen
  have hperm : qs.Perm (selectPairs s.block.watch (b &&& s.block.cache.cfg)) := hqs.perm hn
  have htop := run_service_top hsvc hd hp hb hs hr hm
  obtain ⟨t, hrun, hblock, hmoves, hgrew⟩ := run_service_fansOut (ms := ms)
    (s := (s.withMoves (invocations .portA ks ++ ms)).afterTop b) hqs rfl hmode hd hp rfl rfl
  obtain ⟨htopGrew, -⟩ := outside_afterTop (s.withMoves (invocations .portA ks ++ ms)) b
  refine ⟨t, qs, ?run, hperm.nodup_iff.mpr hn.of_map, fun i h => hperm.mem_iff.trans (mem_selectPairs_iff i h), ?block,
    hmoves, (htopGrew.trans hgrew).of_hist rfl⟩
  case run => rw [Nat.add_comm, run_add htop]; exact hrun
  case block => rw [hblock, ← hsvc]; rfl

end Sys2Proof.Machine
end

section
/-! PROOFS. The hang of a PPULSE (70_reset_and_hazards.md R252), the stops on moves that are assumed never (R264), the calls
that are never answered and the end of a run (R263). -/

namespace Sys2Proof.Machine

/-! ### The hang of a PPULSE (R252) -/

/-- Settles O22: in each phase the bytes are those that leave the phase waiting, so `polled_waiting` is the run. -/
theorem ppulseHangsWhileThePinDoesNotMove : Obligations.PpulseHangsWhileThePinDoesNotMove := by
  unfold Obligations.PpulseHangsWhileThePinDoesNotMove
  intro p i l s bytes as ms hphase hmoves hbus
  have hwaits : ∀ b ∈ bytes, (s.block.pulse p).Waits b := by
    rcases hphase with ⟨hv, hb⟩ | ⟨hv, hb⟩ | ⟨⟨t0, hv⟩, hb⟩ <;> rw [hv] <;> exact hb
  have ho : Offers p s (bytes ++ []) ms as := ⟨by rw [List.append_nil, hmoves], by rw [List.append_nil, hbus]⟩
  obtain ⟨t, h⟩ := polled_waiting ho rfl hwaits
  refine ⟨t, h.run, h.pulse, ?block, h.grew⟩
  case block =>
    rw [h.block, setPulse_self (by cases p <;> rfl)]
    rfl

section
variable {s : State} {p : Port} {f : Fanout} {fs : List Fanout} {ms : List Move}

/-! ### Commands out of turn (R264; 60_exceptions.md R220) -/

theorem step_command_outOfTurn {w : CmdWord} (hm : s.env.moves = .command p w :: ms) (hmay : s.mayCommand p = false) :
    step s = .fault (outOfTurn p s) := by
  rw [step_command hm, issue, mayCommand_withMoves, if_neg (Bool.eq_false_iff.mp hmay)]
  rfl

/-- On a port with a command in progress, a command out of turn comes before the response. -/
theorem outOfTurn_busy (h : ¬(s.block.pulse p = .idle ∧ s.block.disp p = [])) :
    outOfTurn p s = .commandBeforeResponse p := by
  refine if_neg ?_
  rintro ⟨rfl, hpulse, hdisp⟩
  exact h ⟨hpulse, hdisp⟩

theorem mayCommand_of_pulsing (hp : s.block.pulse p ≠ .idle) : s.mayCommand p = false := by
  rw [State.mayCommand, beq_false_of_ne hp, Bool.false_and]

/-- A port with no handler running may issue no command, unless it is port S with nothing in progress. -/
theorem mayCommand_of_no_handler (hr : s.handlerRunning p = false) (hd : p = .portS → s.block.dispS ≠ []) :
    s.mayCommand p = false := by
  refine Bool.eq_false_iff.mpr fun hmay => ?_
  rcases handlerRunning_of_mayCommand hmay with hrun | ⟨hport, hnil⟩
  · exact absurd (hr.symm.trans hrun) nofun
  · exact hd hport hnil

/-- A dispatch between two handlers holds its port. -/
theorem mayCommand_of_dispatching (hd : s.block.disp p = f :: fs) (hf : f.running = none) : s.mayCommand p = false := by
  refine mayCommand_of_no_handler (by rw [handlerRunning_of_disp hd, hf]; rfl) ?_
  rintro rfl hnil
  exact absurd (hnil.symm.trans hd) nofun

/-! ### Returns, edges and clocks that are assumed never (R264; 60_exceptions.md R213) -/

theorem step_ret_without_handler (hm : s.env.moves = .ret p :: ms) (hr : s.handlerRunning p = false) :
    step s = .fault (.returnWithoutHandler p) := by
  have hmay : (s.withMoves ms).mayReturn p = false := Bool.and_eq_false_imp.mpr fun _ => hr
  simp only [step, stepWith, hm, runMove, hmay]
  rfl

theorem step_edge_in_service (hm : s.env.moves = .edge :: ms) (hsvc : s.block.svc ≠ .idle) :
    step s = .fault .edgeDuringService :=
  (step_edge hm).trans (if_neg hsvc)

/-- The poll that would end the measurement stops where the clock reads less than at the start. -/
theorem poll_timeBackwards {i : PinIdx} {l : Level} {b : Byte} {t0 c : Nat} {cs : List Nat} (hs : s.busSilent = false)
    (hr : s.busReply = .ok b) (hv : s.block.pulse p = .timing i l t0) (hb : pinLevel b i ≠ l)
    (hc : s.env.clock = c :: cs) (hlt : c < t0) : poll p s = .fault .timeBackwards := by
  have hend : (s.readInput b).endTime t0 = c := by
    rw [State.endTime, show (s.readInput b).env.clock = c :: cs from hc]
  simp only [poll, hv, hs, timingPoll, deviceRead_inp_ok hr, if_neg hb, hend, if_pos hlt]
  rfl

end

/-- Settles O35, one move at a time: a command is out of turn by `step_command_outOfTurn`, and each other move has its own
lemma above. -/
theorem assumedNeverMovesStop : Obligations.AssumedNeverMovesStop := by
  unfold Obligations.AssumedNeverMovesStop
  refine fun s ms => ⟨fun p w hm hp => ?pulsing, fun p w f fs hm hd hf => ?dispatching, fun w hm hp hd hr => ?portA,
    fun p hm hr => step_ret_without_handler hm hr, fun hm hsvc => step_edge_in_service hm hsvc,
    fun p k i l t0 b c cs hm hv hs hr hb hc hlt => ?time⟩
  case pulsing =>
    rw [step_command_outOfTurn hm (mayCommand_of_pulsing hp), outOfTurn_busy fun ⟨hidle, _⟩ => hp hidle]
  case dispatching =>
    have hbusy : ¬(s.block.pulse p = .idle ∧ s.block.disp p = []) := fun ⟨_, hnil⟩ => absurd (hnil.symm.trans hd) nofun
    rw [step_command_outOfTurn hm (mayCommand_of_dispatching hd hf), outOfTurn_busy hbusy]
  case portA =>
    have hrun : s.handlerRunning .portA = false := (handlerRunning_of_no_disp hd).trans hr
    rw [step_command_outOfTurn hm (mayCommand_of_no_handler hrun nofun), outOfTurn, if_pos ⟨rfl, hp, hd⟩]
  case time =>
    exact (step_poll hm (by rw [hv]; nofun)).trans (poll_timeBackwards (s := s.withMoves ms) hs hr hv hb hc hlt)

/-! ### Calls that are never answered (R263) -/

section
variable {s : State}

/-- On a silent bus a command either makes no transaction or stops at its first one. -/
theorem exec_bus_silent (hs : s.busSilent = true) (i : Instr) :
    TransactionsOf s.block.address i [] ∨ exec i s = .fault .busSilent := by
  cases i with
  | setint _ _ | close | pstop _ | ppull _ _ | reg _ _ | unreg _ | disp _ => exact .inl rfl
  | wrcfg _ | wrpol _ | wrout _ | rdin | rdout | rdcfg | rdpol | pdir _ _ | pactlow _ _ | pwrite _ _ | pread _
  | pwatch _ _ _ | ppulse _ _ => exact .inr (guardBus_silent hs)

theorem exec_setint_first_silent (xp h : Tok) (hb : s.block.intBound = false) (hx : s.xpinSilent = true) :
    exec (.setint xp h) s = .fault .xpinSilent := by
  rw [exec, execSetint, if_neg (Bool.eq_false_iff.mp hb), if_pos hx]

theorem exec_setint_second_silent (xp h : Tok) (hb : s.block.intBound = false) (hx : s.xpinSilent = false)
    (hr : s.xpinReply = .ok) (hy : s.tookXPin.xpinSilent = true) : exec (.setint xp h) s = .fault .xpinSilent := by
  rw [exec, execSetint, if_neg (Bool.eq_false_iff.mp hb), if_neg (Bool.eq_false_iff.mp hx)]
  simp only [xpinCall, logXPin_xpinSilent, hr, hy]
  rfl

theorem exec_close_silent (hb : s.block.intBound = true) (hx : s.xpinSilent = true) :
    exec .close s = .fault .xpinSilent := by
  rw [exec, execClose, if_pos hb, if_pos hx]

end

/-- Settles O36: one lemma for the bus and one for each call of SETINT and CLOSE. -/
theorem unansweredCallsHang : Obligations.UnansweredCallsHang :=
  fun _ => ⟨exec_bus_silent,
    fun hx => ⟨fun xp h hb => exec_setint_first_silent xp h hb hx, fun hb => exec_close_silent hb hx⟩,
    exec_setint_second_silent⟩

/-! ### The end of a run (R263) -/

theorem State.quiescent.hasWork {s : State} (h : s.quiescent) (p : Port) : s.hasWork p = false := by
  cases p with
  | portS => simp [State.hasWork, Block.pulse, Block.disp, h.pulseS, h.dispS]
  | portA => simp [State.hasWork, Block.pulse, Block.disp, h.pulseA, h.dispA, h.svc, Svc.hasWork]

/-- Settles O54: with no move to come and no work on either port the step is the identity. -/
theorem overIsAtRest : Obligations.OverIsAtRest := by
  unfold Obligations.OverIsAtRest
  rintro s ⟨hquiet, hmoves⟩
  have hnext : s.nextPort = none := by simp only [State.nextPort, hquiet.hasWork]
  simp only [step, stepWith, hmoves, hnext]

end Sys2Proof.Machine
end
